-- ==== Sys2Proof/Word.lean ====
section
/-! DEFINITION. The data the core carries: bytes, the data word, the frame buffer, the operand fields at the widest width a
legal configuration gives them, and the fields of the command channel (R7, R10, R11, R14, R35). -/

namespace Sys2Proof

/-- `u8`. -/
abbrev Byte := BitVec 8

/-- The data word: `word[0..4]`, five bytes (R27, R100). -/
abbrev Word := Vector Byte 5

/-- Nine bytes, byte 0 first: a write frame (R88), and the transmit buffer `tx_buf[0..8]` (R30). -/
abbrev Frame := Vector Byte 9

/-- A `u(ADDR_W)` value. ADDR_W is at most 64 (R7); with a smaller ADDR_W the bits above it are 0. -/
abbrev Addr := BitVec 64

/-- A `u(WLEN_W)` value. WLEN_W is at most 16 (R7). -/
abbrev WLen := BitVec 16

/-- A `u(PORT_W)` value, a port index or a port count. PORT_W is at most 16 (R7). -/
abbrev PortIdx := BitVec 16

/-- The command channel's fields (R35): every command presents all of them in parallel (R80), and they are the fields of the
operand latches (R27). -/
structure Cmd where
  op : BitVec 3
  idxGiven : Bool
  idx : PortIdx
  wlen : WLen
  addr : Addr
  /-- `cmd_word`: word byte i is bits `[8i+7 : 8i]`. -/
  word : BitVec 40
deriving DecidableEq, Repr

/-- Every field 0: the base the assembler and `encode` start from (R87). -/
def Cmd.zero : Cmd :=
  { op := 0, idxGiven := false, idx := 0, wlen := 0, addr := 0, word := 0 }

end Sys2Proof
end

