-- ==== Sys2Proof/Config.lean ====
section
/-! DEFINITION. The elaboration-time parameters of the core (R7, R25), the conditions under which a core exists (R26),
elaboration, which refuses every other parameter set by name (93 I11), and the link constants handed to the PHY (R8, R41).
No configuration value is free: the spec states every one or makes it a parameter. -/

namespace Sys2Proof

/-- The parameters of R7, with the spec's defaults. -/
structure Params where
  /-- `ADDR_W`, the width of `cmd_addr`. -/
  addrW : Nat := 32
  /-- `WIN_BOTTOM`, inclusive. -/
  winBottom : Nat := 0
  /-- `WIN_TOP`, exclusive. -/
  winTop : Nat := 4096
  /-- `WORD_LEN`. -/
  wordLen : Nat := 5
  /-- `WLEN_W`, the width of `cmd_wlen`. -/
  wlenW : Nat := 8
  /-- `PORT_W`, the width of `cmd_idx` and of `port_count`. -/
  portW : Nat := 8
deriving DecidableEq, Repr

/-- The legal values of R7, with the invariants of R26. -/
abbrev Params.Legal (p : Params) : Prop :=
  (12 ≤ p.addrW ∧ p.addrW ≤ 64) ∧ (p.winBottom < p.winTop ∧ p.winTop ≤ 2 ^ p.addrW) ∧ p.wordLen = 5 ∧
    (3 ≤ p.wlenW ∧ p.wlenW ≤ 16) ∧ (1 ≤ p.portW ∧ p.portW ≤ 16)

/-- A configuration for which a core exists (R26): parameters together with their legality, so that no state of the
machine can hold any other. -/
structure Config extends Params where
  legal : toParams.Legal
deriving DecidableEq, Repr

/-- The configuration with every default of R7. -/
def Config.standard : Config := { legal := by decide }

/-- Why elaboration refuses a parameter set: one reason for each row of R7's table that can be broken. -/
inductive ElaborationRefusal where
  /-- `ADDR_W` is not in 12 to 64. -/
  | addressWidth
  /-- `WIN_BOTTOM < WIN_TOP ≤ 2^ADDR_W` does not hold. -/
  | window
  /-- `WORD_LEN` is not 5. -/
  | wordLength
  /-- `WLEN_W` is not in 3 to 16. -/
  | lengthWidth
  /-- `PORT_W` is not in 1 to 16. -/
  | portWidth
deriving DecidableEq, Repr

/-- Elaboration (R7, R26): the core's configuration, or the first reason there is none. -/
def Params.elaborate (p : Params) : Except ElaborationRefusal Config :=
  if hA : 12 ≤ p.addrW ∧ p.addrW ≤ 64 then
    if hW : p.winBottom < p.winTop ∧ p.winTop ≤ 2 ^ p.addrW then
      if hL : p.wordLen = 5 then
        if hN : 3 ≤ p.wlenW ∧ p.wlenW ≤ 16 then
          if hP : 1 ≤ p.portW ∧ p.portW ≤ 16 then
            .ok { toParams := p, legal := ⟨hA, hW, hL, hN, hP⟩ }
          else .error .portWidth
        else .error .lengthWidth
      else .error .wordLength
    else .error .window
  else .error .addressWidth

/-- `BAUD` (R8, R25): 115200. -/
def Config.baud : BitVec 17 := 115200

/-- `DATA_BITS` (R8, R25). -/
def Config.dataBits : BitVec 4 := 8

/-- `STOP_BITS` (R8, R25). -/
def Config.stopBits : BitVec 2 := 2

/-- `XONXOFF` (R8, R25): no software flow control. -/
def Config.xonxoff : Bool := false

/-- `RTSCTS` (R8, R25): no hardware flow control. -/
def Config.rtscts : Bool := false

end Sys2Proof
end

