-- ==== Sys2Proof/Machine/State.lean ====
section
/-! DEFINITION. The state of the core: the architectural link state (R20, R21), every register that lives inside one command
(R27 to R31), the response registers (R37), the hardwired configuration (R25), and, as the model's own fields, the input pins of
the coming and of the later clock edges (R34 to R42) and what the core has handed out (R13). -/

namespace Sys2Proof.Machine

/-- `link` (R20). -/
inductive LinkState where
  | closed
  | opened
deriving DecidableEq, Repr

/-- The sequencer state `seq` (R28); its values 5, 6 and 7 are never entered. -/
inductive Seq where
  | idle
  | phyOpen
  | tx
  | phyClose
  | resp
deriving DecidableEq, Repr

/-- The status codes of R170; codes 9 to 15 are never produced. -/
inductive Status where
  | ok
  | noPortsPresent
  | invalidPortSelectionAmbiguous
  | invalidPortSelectionRange
  | cannotOpenPort
  | encodingOverflow
  | linkWriteFailed
  | badLinkState
  | illegalCommand
deriving DecidableEq, Repr

/-- The response registers (R36, R37). -/
structure Response where
  status : Status
  count : BitVec 4
  flag : Bool
  frame : BitVec 72
deriving DecidableEq, Repr

/-- What the core hands to the PHY (R12, R40, R42): a request, when it is raised, or a byte, when the PHY accepts it. -/
inductive PhyEvent where
  | openReq (idx : PortIdx)
  | byte (b : Byte)
  | closeReq
deriving DecidableEq, Repr

/-- The levels on every input of the core at one rising edge of `clk` (R34, R35, R36, R39, R40, R42). A field wider than the
configuration's width is read through its low wires only. -/
structure Pins where
  rst : Bool
  cmdValid : Bool
  cmd : Cmd
  respReady : Bool
  portCount : PortIdx
  phyOpenDone : Bool
  phyOpenOk : Bool
  phyCloseDone : Bool
  txReady : Bool
  txErr : Bool
deriving DecidableEq, Repr

/-- Nothing is presented and nobody answers. -/
def Pins.quiet : Pins :=
  { rst := false, cmdValid := false, cmd := Cmd.zero, respReady := false, portCount := 0, phyOpenDone := false,
    phyOpenOk := false, phyCloseDone := false, txReady := false, txErr := false }

/-- The machine. -/
structure State where
  /-- The hardwired control fields of R25. -/
  cfg : Config
  /-- `link_q` (R21). -/
  linkQ : LinkState
  /-- `seq` (R28). -/
  seq : Seq
  /-- `op_q` (R29). -/
  opQ : BitVec 3
  /-- `idx_given_q` (R27). -/
  idxGivenQ : Bool
  /-- `idx_q` (R27). -/
  idxQ : PortIdx
  /-- `addr_q` (R27). -/
  addrQ : Addr
  /-- `word_q[0..4]` (R27). -/
  wordQ : Word
  /-- `wlen_q` (R27). -/
  wlenQ : WLen
  /-- `sel_q` (R29). -/
  selQ : PortIdx
  /-- `after_tx_q` (R29). -/
  afterTxQ : Bool
  /-- `tx_buf[0..8]` (R30). -/
  txBuf : Frame
  /-- `tx_len` (R30). -/
  txLen : BitVec 4
  /-- `tx_idx` (R30). -/
  txIdx : BitVec 4
  /-- `tx_fail` (R30). -/
  txFail : Bool
  /-- `link_next` (R31). -/
  linkNext : LinkState
  /-- `resp_status`, `resp_count`, `resp_flag`, `resp_frame` (R37). -/
  resp : Response
  /-- The model's own: the input levels at the coming edge. -/
  pins : Pins
  /-- The model's own: the input levels at the edges after it, the next one first; past its end the pins are quiet. -/
  later : List Pins
  /-- The model's own: what has been handed to the PHY, oldest first (R13). -/
  trace : List PhyEvent
  /-- The model's own: the responses the caller has taken, oldest first (R36). -/
  delivered : List Response
deriving DecidableEq, Repr

/-- No step of the core faults: every failure the spec names is a status code in a response (R174). -/
inductive Fault where
deriving DecidableEq, Repr

/-- Why an instruction has no meaning. -/
inductive Refusal where
  /-- Raised by an arm of `exec` whose instruction has no meaning yet; safe, and no arm raises it now. -/
  | notModelled (mnemonic : String)
  /-- Raised by the meaning of an instruction with an operand that does not fit its field (93 I15: it cannot be presented to
  the core, `refuse`). Safe: no command the core can be given is one, and `step` never raises it. -/
  | notPresentable
deriving DecidableEq, Repr

/-- What one meaning answers. -/
abbrev Result := Host.Outcome State Fault Refusal

/-- The machine right after reset (R43): link Closed, `seq` IDLE, every other register 0, in the default configuration, with
nothing on the pins and nothing handed out. -/
def State.reset : State :=
  { cfg := Config.standard
    linkQ := .closed
    seq := .idle
    opQ := 0
    idxGivenQ := false
    idxQ := 0
    addrQ := 0
    wordQ := Vector.replicate 5 0
    wlenQ := 0
    selQ := 0
    afterTxQ := false
    txBuf := Vector.replicate 9 0
    txLen := 0
    txIdx := 0
    txFail := false
    linkNext := .closed
    resp := { status := .ok, count := 0, flag := false, frame := 0 }
    pins := Pins.quiet
    later := []
    trace := []
    delivered := [] }

end Sys2Proof.Machine
end

