-- ==== Sys2Proof/Machine/Flags.lean ====
section
/-! DEFINITION. The one computed flag, the guard (R121, CHECK's `resp_flag`), and the codes in which registers and outputs
show named values: `link_q` (R21), `seq` (R28), the status codes (R170). -/

namespace Sys2Proof.Machine

/-- `Guard(address, wlen, link)` (R121): window, length and link, all comparisons unsigned and on values that are not
truncated. -/
def guard (cfg : Config) (addr : Addr) (wlen : WLen) (link : LinkState) : Bool :=
  decide (cfg.winBottom ≤ addr.toNat) && decide (addr.toNat < cfg.winTop) && decide (wlen.toNat = cfg.wordLen)
    && link == .opened

/-- `link_q`: 0 = Closed, 1 = Open (R21). -/
def LinkState.bit : LinkState → BitVec 1
  | .closed => 0
  | .opened => 1

/-- The 3-bit encoding of `seq` (R28). -/
def Seq.code : Seq → BitVec 3
  | .idle => 0
  | .phyOpen => 1
  | .tx => 2
  | .phyClose => 3
  | .resp => 4

/-- The status codes (R170). -/
def Status.code : Status → BitVec 4
  | .ok => 0
  | .noPortsPresent => 1
  | .invalidPortSelectionAmbiguous => 2
  | .invalidPortSelectionRange => 3
  | .cannotOpenPort => 4
  | .encodingOverflow => 5
  | .linkWriteFailed => 6
  | .badLinkState => 7
  | .illegalCommand => 8

/-- A reader of responses: it refuses the reserved codes 9 to 15 (R170, 93 I13). -/
def Status.ofCode (c : BitVec 4) : Option Status :=
  match c.toNat with
  | 0 => some .ok
  | 1 => some .noPortsPresent
  | 2 => some .invalidPortSelectionAmbiguous
  | 3 => some .invalidPortSelectionRange
  | 4 => some .cannotOpenPort
  | 5 => some .encodingOverflow
  | 6 => some .linkWriteFailed
  | 7 => some .badLinkState
  | 8 => some .illegalCommand
  | _ => none

end Sys2Proof.Machine
end

