-- ==== Sys2Proof/Syntax.lean ====
section
/-! DEFINITION. The command set: one constructor for each row of spec/opcode_table.json, with the operands the command READS
(R82, R84). A field a command ignores is no operand of it. -/

namespace Sys2Proof

/-- The commands (R82). -/
inductive Instr where
  /-- `OPEN`, no index given (R150). -/
  | openNone
  /-- `OPEN <i>` (R150). -/
  | openIdx (idx : PortIdx)
  /-- `CLOSE` (R155). -/
  | close
  /-- `WRITE <a>, [...]` (R131): the address, the presented length and the five presented bytes. -/
  | write (addr : Addr) (wlen : WLen) (word : Word)
  /-- `CHECK <a>, [...]` (R130): it reads the presented length and no word byte (R84). -/
  | check (addr : Addr) (wlen : WLen)
  /-- `ENCODE <a>, [...]` (R105): it reads no length (R84). -/
  | encode (addr : Addr) (word : Word)
  /-- Reserved op 0b000 (R86). -/
  | reserved000
  /-- Reserved op 0b110 (R86). -/
  | reserved110
  /-- Reserved op 0b111 (R86). -/
  | reserved111
deriving DecidableEq, Repr

end Sys2Proof
end

