-- ==== Sys2Proof/WellFormed.lean ====
section
/-! DEFINITION. Which commands can be presented to a core of a given configuration: every operand must fit its field
(R7, R87, 93 I15). A word always has its five bytes by its type. -/

namespace Sys2Proof

/-- The operands of `i` fit the widths of `cfg`. -/
def Instr.wellFormed (cfg : Config) : Instr → Bool
  | .openNone => true
  | .openIdx idx => decide (idx.toNat < 2 ^ cfg.portW)
  | .close => true
  | .write addr wlen _ => decide (addr.toNat < 2 ^ cfg.addrW) && decide (wlen.toNat < 2 ^ cfg.wlenW)
  | .check addr wlen => decide (addr.toNat < 2 ^ cfg.addrW) && decide (wlen.toNat < 2 ^ cfg.wlenW)
  | .encode addr _ => decide (addr.toNat < 2 ^ cfg.addrW)
  | .reserved000 => true
  | .reserved110 => true
  | .reserved111 => true

end Sys2Proof
end

