-- ==== Sys2Proof/Decode.lean ====
section
/-! DEFINITION. Decoding: the packing of a command into a CMDW (R80), the word bytes on their bus (R35), the op map (R82, R83),
and after it the encoder of the same tables. The hardware decodes the parallel fields (`decodeCmd`); the CMDW is the spec's
notation for them, and `decode` reads it, total on every number and rejecting by name what is no command word. -/

namespace Sys2Proof

/-- Why a number is no command (93 I15). -/
inductive DecodeRefusal where
  /-- It has a bit set above the CMDW's `3 + 1 + PORT_W + WLEN_W + ADDR_W + 40` bits (R80). -/
  | notACommandWord
deriving DecidableEq, Repr

/-- The low `n` wires of a field held at its widest width. -/
def lowBits (n : Nat) {w : Nat} (v : BitVec w) : BitVec w := (v.setWidth n).setWidth w

/-- The five bytes of `cmd_word`: byte i is bits `[8i+7 : 8i]` (R35, R80). -/
def wordOfBus (b : BitVec 40) : Word := Vector.ofFn fun i => b.extractLsb' (8 * i.val) 8

/-- The bus value that presents a word: `word[i]` at bits `[8i+7 : 8i]` (R35). -/
def busOfWord (w : Word) : BitVec 40 := w[4] ++ w[3] ++ w[2] ++ w[1] ++ w[0]

/-- The fields as the wires of a core of this configuration carry them: each at its own width (R35). -/
def Cmd.onWires (cfg : Config) (c : Cmd) : Cmd :=
  { c with idx := lowBits cfg.portW c.idx, wlen := lowBits cfg.wlenW c.wlen, addr := lowBits cfg.addrW c.addr }

/-- The op map of R82, read bit by bit from bit 2 down: each of the eight values selects one row (R83), and `idx_given`
chooses between the two forms of OPEN and nothing else. -/
def decodeCmd (c : Cmd) : Instr :=
  match c.op.getLsbD 2, c.op.getLsbD 1, c.op.getLsbD 0 with
  | false, false, false => .reserved000
  | false, false, true => if c.idxGiven then .openIdx c.idx else .openNone
  | false, true, false => .close
  | false, true, true => .write c.addr c.wlen (wordOfBus c.word)
  | true, false, false => .check c.addr c.wlen
  | true, false, true => .encode c.addr (wordOfBus c.word)
  | true, true, false => .reserved110
  | true, true, true => .reserved111

/-- The number of bits of a CMDW (R80). -/
def cmdwBits (cfg : Config) : Nat := 3 + 1 + cfg.portW + cfg.wlenW + cfg.addrW + 40

/-- The fields of a CMDW, from bit 0 upward: op, idx_given, idx, wlen, addr, word (R80). -/
def fieldsOf (cfg : Config) (w : Nat) : Cmd :=
  { op := BitVec.ofNat 3 w
    idxGiven := w.testBit 3
    idx := BitVec.ofNat 16 (w / 2 ^ 4 % 2 ^ cfg.portW)
    wlen := BitVec.ofNat 16 (w / 2 ^ (4 + cfg.portW) % 2 ^ cfg.wlenW)
    addr := BitVec.ofNat 64 (w / 2 ^ (4 + cfg.portW + cfg.wlenW) % 2 ^ cfg.addrW)
    word := BitVec.ofNat 40 (w / 2 ^ (4 + cfg.portW + cfg.wlenW + cfg.addrW)) }

/-- The instruction a number stands for as a CMDW. -/
def decode (cfg : Config) (w : Nat) : Except DecodeRefusal Instr :=
  if w < 2 ^ cmdwBits cfg then .ok (decodeCmd (fieldsOf cfg w)) else .error .notACommandWord

/-- The decoder on a row of spec/opcode_table.json: its match and mask are over the CMDW of the default parameters, bit 0 the
least significant, and the bits above `nbits` are 0. -/
def decodeTableWord (nbits w : Nat) : Option Instr := (decode Config.standard (w % 2 ^ nbits)).toOption

/-- The command channel presenting `i`, over fields `c`: the fields `i` uses are set and the fields it ignores keep the value
they have in `c` (R82, R84, R87). -/
def encodeOver (i : Instr) (c : Cmd) : Cmd :=
  match i with
  | .openNone => { c with op := 0b001, idxGiven := false }
  | .openIdx idx => { c with op := 0b001, idxGiven := true, idx := idx }
  | .close => { c with op := 0b010 }
  | .write addr wlen word => { c with op := 0b011, addr := addr, wlen := wlen, word := busOfWord word }
  | .check addr wlen => { c with op := 0b100, addr := addr, wlen := wlen }
  | .encode addr word => { c with op := 0b101, addr := addr, word := busOfWord word }
  | .reserved000 => { c with op := 0b000 }
  | .reserved110 => { c with op := 0b110 }
  | .reserved111 => { c with op := 0b111 }

/-- The CMDW of a command's fields (R80), the op in the lowest bits and each next field above it. -/
def packCmd (cfg : Config) (c : Cmd) : Nat :=
  c.op.toNat + 2 ^ 3 * (c.idxGiven.toNat + 2 * (c.idx.toNat + 2 ^ cfg.portW *
    (c.wlen.toNat + 2 ^ cfg.wlenW * (c.addr.toNat + 2 ^ cfg.addrW * c.word.toNat))))

/-- The CMDW of a well-formed instruction, with every field it does not use 0 (R87). -/
def encode (cfg : Config) (i : Instr) : Nat := packCmd cfg (encodeOver i Cmd.zero)

end Sys2Proof
end

