-- ==== Sys2Proof/Machine/Operands.lean ====
section
/-! DEFINITION. What the core reads from the command channel and the port lister, and the operand latches (R27, R35, R39, R84,
R85). Every operand is one unsigned field; nothing is sign-extended or scaled. -/

namespace Sys2Proof.Machine

/-- The command channel's fields at the coming edge, each at its own width. -/
def State.presented (s : State) : Cmd := s.pins.cmd.onWires s.cfg

/-- `PortCount()` (R12, R142): `port_count` at the coming edge, a u(PORT_W). -/
def State.portCount (s : State) : PortIdx := lowBits s.cfg.portW s.pins.portCount

/-- A command transfers at the coming edge (R200): `cmd_valid = 1` with `cmd_ready = 1`. -/
def State.accepting (s : State) : Bool := !s.pins.rst && s.seq == .idle && s.pins.cmdValid

/-- The command the channel presents at the coming edge. -/
def State.fetched (s : State) : Instr := decodeCmd s.presented

/-- The operand latches take the fields `c` of an accepted command, all of them in the same cycle (R27), and
`link_next <- link_q` (R200). -/
def State.latch (c : Cmd) (s : State) : State :=
  { s with
    opQ := c.op, idxGivenQ := c.idxGiven, idxQ := c.idx, addrQ := c.addr, wordQ := wordOfBus c.word, wlenQ := c.wlen,
    linkNext := s.linkQ }

end Sys2Proof.Machine
end

