-- ==== Sys2Proof/Machine/Ops.lean ====
section
/-! DEFINITION. The operations every command and every clock edge is made of: ending a command with a response (R12, R201),
with an error as one form of it (R171, R174), the caller's taking of the response (R202), reset (R210, R211), the transmit
registers (R30), the requests to the PHY, and the waits for its answers (R12, R187). -/

namespace Sys2Proof.Machine

/-! ## Clock edges and reset -/

/-- The coming edge is `p` and the edges after it are `l`. -/
def State.atEdges (p : Pins) (l : List Pins) (s : State) : State := { s with pins := p, later := l }

/-- The coming edge has passed: the pins are those of the edge after it, and quiet past the last one. -/
def State.advance (s : State) : State := s.atEdges (s.later.headD Pins.quiet) s.later.tail

/-- An edge with `rst = 1` (R210, R211): every register takes its reset value (R43), whatever else is on the pins. The
configuration is hardwired; what the PHY and the caller already have stays theirs. -/
def State.resetEdge (s : State) : State :=
  State.advance { State.reset with
    cfg := s.cfg, pins := s.pins, later := s.later, trace := s.trace, delivered := s.delivered }

/-- Acceptance of `i` (R200): its operands and, in the fields it ignores, whatever the channel presents are latched (R27), and
the edge passes. -/
def State.accept (i : Instr) (s : State) : State := (s.latch (encodeOver i s.presented)).advance

/-- What an instruction that can be presented to this core answers; any other is refused (93 I15). -/
def ifPresentable (i : Instr) (s : State) (answer : Result) : Result :=
  if i.wellFormed s.cfg then answer else .refused .notPresentable

/-! ## Ending a command -/

/-- `link_next <- l` (R31, R200, R203). -/
def State.setLinkNext (l : LinkState) (s : State) : State := { s with linkNext := l }

/-- "→ RESP": the response registers are loaded and `link_q <- link_next` on the edge where `seq` enters RESP (R201). -/
def State.enterResp (r : Response) (s : State) : State :=
  { s with resp := r, linkQ := s.linkNext, seq := .resp }

/-- `respond(status, count, flag, frame)` (R12). -/
def respond (status : Status) (count : BitVec 4) (flag : Bool) (frame : BitVec 72) (s : State) : Result :=
  .next (s.enterResp { status := status, count := count, flag := flag, frame := frame })

/-- `raise E` and `raise E with count = k` (R12, R171): an error is a response with status E and count k, and nothing else. It
is no trap: nothing is saved, no mode changes, nothing is vectored (R174). -/
def raise (e : Status) (k : BitVec 4) (s : State) : Result := respond e k false 0 s

/-- The caller takes the response and the core is idle again (R202), after an error as after a success (R175). -/
def State.takeResponse (s : State) : State :=
  { s with seq := .idle, delivered := s.delivered ++ [s.resp] }

/-! ## The transmit registers and the requests to the PHY -/

/-- `tx_buf[0..len-1] <- bs`; the rest of `tx_buf` keeps its bytes (R200, R203). -/
def loadBytes (bs : List Byte) (buf : Frame) : Frame := Vector.ofFn fun k => bs[k.val]?.getD buf[k]

/-- A send begins: the whole frame is held before its first byte leaves (R30, R200, R203). -/
def State.loadTx (bs : List Byte) (thenClose : Bool) (s : State) : State :=
  { s with
    txBuf := loadBytes bs s.txBuf, txLen := BitVec.ofNat 4 bs.length, txIdx := 0, txFail := false,
    afterTxQ := thenClose, seq := .tx }

/-- The PHY has accepted byte `b` (R204). -/
def State.byteAccepted (b : Byte) (s : State) : State :=
  { s with txIdx := s.txIdx + 1, trace := s.trace ++ [.byte b] }

/-- The PHY has refused the presented byte (R204). -/
def State.byteRefused (s : State) : State := { s with txFail := true }

/-- `phy_open_req` rises with `phy_open_idx = sel` (R145, R200). -/
def State.requestOpen (sel : PortIdx) (s : State) : State :=
  { s with selQ := sel, seq := .phyOpen, trace := s.trace ++ [.openReq sel] }

/-- `phy_close_req` rises (R204, R205). -/
def State.requestClose (s : State) : State := { s with seq := .phyClose, trace := s.trace ++ [.closeReq] }

/-! ## Waiting for an agent (R187), and the primitives of R12 -/

/-- The first of the coming edges at which the agent has answered, with the pins and later edges that stand after it. There is
none where a reset edge stands first, which is left on the pins, or where no edge answers. -/
def awaitIn (answered : Pins → Bool) : Pins → List Pins → Option Pins × Pins × List Pins
  | p, [] =>
    if p.rst then (none, p, [])
    else if answered p then (some p, Pins.quiet, [])
    else (none, Pins.quiet, [])
  | p, q :: rest =>
    if p.rst then (none, p, q :: rest)
    else if answered p then (some p, q, rest)
    else awaitIn answered q rest

/-- Wait, with no bound, for an answer: nothing changes but the edges that pass. -/
def State.await (answered : Pins → Bool) (s : State) : Option Pins × State :=
  let r := awaitIn answered s.pins s.later
  (r.1, s.atEdges r.2.1 r.2.2)

/-- The PHY answers a presented byte (R204). -/
def Pins.byteAnswered (p : Pins) : Bool := p.txErr || p.txReady

/-- How a send stands when the edges of the state have been followed. -/
inductive SendEnd where
  /-- Every byte was accepted. -/
  | ok
  /-- The PHY refused a byte; `tx_idx` bytes were accepted before it. -/
  | failed
  /-- The PHY has not answered the presented byte yet, or a reset edge stands before its answer. -/
  | pending
deriving DecidableEq, Repr

/-- `Send(bs)` once the transmit registers are loaded (R12, R62, R204): one byte after another, a refusal ending the send and
taking priority over an acceptance in the same cycle, and nothing retried. -/
def sendBytes : List Byte → State → SendEnd × State
  | [], s => (.ok, s)
  | b :: bs, s =>
    match s.await Pins.byteAnswered with
    | (none, t) => (.pending, t)
    | (some p, t) => if p.txErr then (.failed, t.byteRefused) else sendBytes bs (t.byteAccepted b)

end Sys2Proof.Machine
end

