-- ==== Sys2Proof/Machine/Encoder.lean ====
section
/-! DEFINITION. The Frame Encoder (40_frame_encoder.md) and the ENCODE command. -/

namespace Sys2Proof.Machine

/-- `BE16(v)`: the most-significant byte first (R63). -/
def be16 (v : BitVec 16) : Byte × Byte := (v.extractLsb' 8 8, v.extractLsb' 0 8)

/-- `Encode(address, word)` (R100, R101): the nine bytes of the write frame, or none where the shifted address does not fit
16 bits. A pure function of its two arguments (R103). -/
def encodeFrame (addr : Addr) (word : Word) : Option Frame :=
  let shifted := addr.toNat * 2 ^ 4
  if 2 ^ 16 ≤ shifted then none
  else
    let hiLo := be16 (BitVec.ofNat 16 shifted)
    let nib := word[0] &&& 0x0F#8
    some #v[0xAA, 0xAA, hiLo.1, hiLo.2 ||| nib, word[1], word[2], word[3], word[4], 0xAA]

/-- A frame on `resp_frame`: byte k at bits `[8k+7 : 8k]` (R36, R105). -/
def frameBits (f : Frame) : BitVec 72 :=
  f[8] ++ f[7] ++ f[6] ++ f[5] ++ f[4] ++ f[3] ++ f[2] ++ f[1] ++ f[0]

/-- ENCODE (R105, R106): the frame, or EncodingOverflow, with no effect on the wire. -/
def execEncode (addr : Addr) (word : Word) (s : State) : Result :=
  ifPresentable (.encode addr word) s <|
    match encodeFrame addr word with
    | some f => respond .ok 0 false (frameBits f) (s.accept (.encode addr word))
    | none => raise .encodingOverflow 0 (s.accept (.encode addr word))

end Sys2Proof.Machine
end

