-- ==== Sys2Proof/Machine/Guard.lean ====
section
/-! DEFINITION. The commands of the Write Guard (41_write_guard.md): CHECK and WRITE. The guard itself is in Flags.lean. -/

namespace Sys2Proof.Machine

/-- CHECK (R130): the guard's value, always with OK. -/
def execCheck (addr : Addr) (wlen : WLen) (s : State) : Result :=
  ifPresentable (.check addr wlen) s <|
    respond .ok 0 (guard s.cfg addr wlen s.linkQ) 0 (s.accept (.check addr wlen))

/-- `Send(f)` of a write frame and the response to it (R131). -/
def sendFrame (f : Frame) (s : State) : Result :=
  match sendBytes f.toList (s.loadTx f.toList false) with
  | (.ok, t) => respond .ok 9 false 0 t
  | (.failed, t) => raise .linkWriteFailed t.txIdx t
  | (.pending, t) => .next t

/-- WRITE (R131 to R133): guard, then encoder, then send. A false guard is a soft rejection, OK with count 0 (R132). -/
def execWrite (addr : Addr) (wlen : WLen) (word : Word) (s : State) : Result :=
  ifPresentable (.write addr wlen word) s <|
    if guard s.cfg addr wlen s.linkQ then
      match encodeFrame addr word with
      | none => raise .encodingOverflow 0 (s.accept (.write addr wlen word))
      | some f => sendFrame f (s.accept (.write addr wlen word))
    else respond .ok 0 false 0 (s.accept (.write addr wlen word))

end Sys2Proof.Machine
end

