-- ==== Sys2Proof/Machine/Lifecycle.lean ====
section
/-! DEFINITION. The Link Lifecycle (42_link_lifecycle.md): port selection, OPEN in its two forms, and CLOSE. -/

namespace Sys2Proof.Machine

/-- `SelectPort(n, idx_given, idx)` (R143, R144): the selected port, or the status of the first rule that fails. -/
def selectPort (n : PortIdx) (idxGiven : Bool) (idx : PortIdx) : Except Status PortIdx :=
  if n = 0 then .error .noPortsPresent
  else if idxGiven = false ∧ 1 < n.toNat then .error .invalidPortSelectionAmbiguous
  else if idxGiven = true ∧ ¬ idx.toNat < n.toNat then .error .invalidPortSelectionRange
  else if idxGiven = false then .ok 0
  else .ok idx

/-- The open handshake frame (R89). -/
def openHandshake : List Byte := List.replicate 8 0xFF

/-- The close handshake frame (R89). -/
def closeHandshake : List Byte := [0xFF]

/-- The open handshake and the response to it, once the PHY handle is open: the link is Open also when the handshake fails
(R150, R152). -/
def sendHandshake (s : State) : Result :=
  match sendBytes openHandshake ((s.setLinkNext .opened).loadTx openHandshake false) with
  | (.ok, t) => respond .ok 8 false 0 t
  | (.failed, t) => raise .linkWriteFailed t.txIdx t
  | (.pending, t) => .next t

/-- `PhyOpen(sel)` and what follows it (R150): no handshake where it fails. -/
def openPort (sel : PortIdx) (s : State) : Result :=
  match (s.requestOpen sel).await Pins.phyOpenDone with
  | (none, t) => .next t
  | (some p, t) => if p.phyOpenOk then sendHandshake t else raise .cannotOpenPort 0 t

/-- OPEN as R150 gives it for both forms, on the state `t` after acceptance; `n` is the port count on the acceptance edge, which an
OPEN in Open does not use (R151). -/
def openCommand (n : PortIdx) (idxGiven : Bool) (idx : PortIdx) (t : State) : Result :=
  match t.linkQ with
  | .opened => raise .badLinkState 0 t
  | .closed =>
    match selectPort n idxGiven idx with
    | .error e => raise e 0 t
    | .ok sel => openPort sel t

/-- OPEN with no index (R150). -/
def execOpenNone (s : State) : Result :=
  ifPresentable .openNone s (openCommand s.portCount false 0 (s.accept .openNone))

/-- OPEN with an explicit index (R150). -/
def execOpenIdx (idx : PortIdx) (s : State) : Result :=
  ifPresentable (.openIdx idx) s (openCommand s.portCount true idx (s.accept (.openIdx idx)))

/-- `PhyClose()` and the response of a CLOSE (R155, R157, R205): the close is requested whether or not the shutdown byte was
accepted, it cannot fail (R188), and only then is the byte's failure reported. -/
def closePhy (s : State) : Result :=
  match s.requestClose.await Pins.phyCloseDone with
  | (none, t) => .next t
  | (some _, t) => if t.txFail then raise .linkWriteFailed t.txIdx t else respond .ok t.txIdx false 0 t

/-- The shutdown byte, then the PHY close "regardless of whether the shutdown byte write succeeded" (R155). -/
def shutDown (s : State) : Result :=
  match sendBytes closeHandshake ((s.setLinkNext .closed).loadTx closeHandshake true) with
  | (.ok, t) => closePhy t
  | (.failed, t) => closePhy t
  | (.pending, t) => .next t

/-- CLOSE (R155); a no-op that succeeds when the link is Closed (R156). -/
def execClose (s : State) : Result :=
  ifPresentable .close s <|
    match s.linkQ with
    | .closed => respond .ok 0 false 0 (s.accept .close)
    | .opened => shutDown (s.accept .close)

end Sys2Proof.Machine
end

