-- ==== Sys2Proof/Machine/Cycle.lean ====
section
/-! DEFINITION. The cycle-level protocol (70_reset_and_hazards.md, R200 to R205, R210, R211): what one rising edge of `clk`
does in each sequencer state, and the output signals (10_state.md, R35 to R42). It is written from the edge tables and uses no
meaning of a command; that the two levels agree (R206) is a statement about both. -/

namespace Sys2Proof.Machine

/-- `tx_valid` (R42). -/
def State.txValid (s : State) : Bool := s.seq == .tx && decide (s.txIdx < s.txLen)

/-- `tx_buf[tx_idx]`, the byte presented while `tx_valid = 1`. -/
def State.txByte (s : State) : Byte := s.txBuf.toList.getD s.txIdx.toNat 0

/-- The acceptance action for `op` (R200), on the state whose latches hold the operands; `n` is `port_count` on that edge. -/
def State.acceptAction (n : PortIdx) (t : State) : State :=
  match t.opQ.getLsbD 2, t.opQ.getLsbD 1, t.opQ.getLsbD 0 with
  | false, false, true =>
    match t.linkQ with
    | .opened => t.enterResp { status := .badLinkState, count := 0, flag := false, frame := 0 }
    | .closed =>
      match selectPort n t.idxGivenQ t.idxQ with
      | .error e => t.enterResp { status := e, count := 0, flag := false, frame := 0 }
      | .ok sel => t.requestOpen sel
  | false, true, false =>
    match t.linkQ with
    | .closed => t.enterResp { status := .ok, count := 0, flag := false, frame := 0 }
    | .opened => (t.setLinkNext .closed).loadTx closeHandshake true
  | false, true, true =>
    if guard t.cfg t.addrQ t.wlenQ t.linkQ then
      match encodeFrame t.addrQ t.wordQ with
      | none => t.enterResp { status := .encodingOverflow, count := 0, flag := false, frame := 0 }
      | some f => t.loadTx f.toList false
    else t.enterResp { status := .ok, count := 0, flag := false, frame := 0 }
  | true, false, false =>
    t.enterResp { status := .ok, count := 0, flag := guard t.cfg t.addrQ t.wlenQ t.linkQ, frame := 0 }
  | true, false, true =>
    match encodeFrame t.addrQ t.wordQ with
    | none => t.enterResp { status := .encodingOverflow, count := 0, flag := false, frame := 0 }
    | some f => t.enterResp { status := .ok, count := 0, flag := false, frame := frameBits f }
  | false, false, false => t.enterResp { status := .illegalCommand, count := 0, flag := false, frame := 0 }
  | true, true, false => t.enterResp { status := .illegalCommand, count := 0, flag := false, frame := 0 }
  | true, true, true => t.enterResp { status := .illegalCommand, count := 0, flag := false, frame := 0 }

/-- The edge that accepts a command (R200): the operands are latched, and the action for `op` is taken on the same edge. -/
def State.acceptEdge (s : State) : State := (s.latch s.presented).acceptAction s.portCount

/-- An edge in PHY_OPEN (R203). -/
def State.phyOpenEdge (s : State) : State :=
  if s.pins.phyOpenDone then
    if s.pins.phyOpenOk then (s.setLinkNext .opened).loadTx openHandshake false
    else s.enterResp { status := .cannotOpenPort, count := 0, flag := false, frame := 0 }
  else s

/-- An edge in TX (R204): refused, accepted, or wait. `tx_ready` and `tx_err` are ignored while `tx_valid = 0` (R44). -/
def State.txEdge (s : State) : State :=
  if s.txValid then
    if s.pins.txErr then
      let t := s.byteRefused
      if s.afterTxQ then t.requestClose
      else t.enterResp { status := .linkWriteFailed, count := s.txIdx, flag := false, frame := 0 }
    else if s.pins.txReady then
      let t := s.byteAccepted s.txByte
      if s.txIdx + 1 = s.txLen then
        if s.afterTxQ then t.requestClose
        else t.enterResp { status := .ok, count := s.txLen, flag := false, frame := 0 }
      else t
    else s
  else s

/-- An edge in PHY_CLOSE (R205). -/
def State.phyCloseEdge (s : State) : State :=
  if s.pins.phyCloseDone then
    s.enterResp { status := if s.txFail then .linkWriteFailed else .ok, count := s.txIdx, flag := false, frame := 0 }
  else s

/-- An edge in RESP (R202). -/
def State.respEdge (s : State) : State := if s.pins.respReady then s.takeResponse else s

/-- One rising edge of `clk` (R34): reset takes priority over every other transition (R211). -/
def State.edge (s : State) : State :=
  if s.pins.rst then s.resetEdge
  else
    match s.seq with
    | .idle => if s.pins.cmdValid then s.acceptEdge.advance else s.advance
    | .phyOpen => s.phyOpenEdge.advance
    | .tx => s.txEdge.advance
    | .phyClose => s.phyCloseEdge.advance
    | .resp => s.respEdge.advance

/-- `n` rising edges. -/
def State.edges : Nat → State → State
  | 0, s => s
  | n + 1, s => State.edges n s.edge

/-- The output signals (R35 to R42). -/
structure Outputs where
  cmdReady : Bool
  respValid : Bool
  respStatus : BitVec 4
  respCount : BitVec 4
  respFlag : Bool
  respFrame : BitVec 72
  linkOpen : BitVec 1
  phyOpenReq : Bool
  phyOpenIdx : PortIdx
  phyCloseReq : Bool
  cfgBaud : BitVec 17
  cfgDataBits : BitVec 4
  cfgStopBits : BitVec 2
  cfgXonxoff : Bool
  cfgRtscts : Bool
  txValid : Bool
  txData : Byte
deriving DecidableEq, Repr

/-- The outputs in the cycle before the coming edge; only `cmd_ready` depends on an input, `rst` (R35). -/
def State.outputs (s : State) : Outputs :=
  { cmdReady := s.seq == .idle && !s.pins.rst
    respValid := s.seq == .resp
    respStatus := s.resp.status.code
    respCount := s.resp.count
    respFlag := s.resp.flag
    respFrame := s.resp.frame
    linkOpen := s.linkQ.bit
    phyOpenReq := s.seq == .phyOpen
    phyOpenIdx := if s.seq = .phyOpen then s.selQ else 0
    phyCloseReq := s.seq == .phyClose
    cfgBaud := Config.baud
    cfgDataBits := Config.dataBits
    cfgStopBits := Config.stopBits
    cfgXonxoff := Config.xonxoff
    cfgRtscts := Config.rtscts
    txValid := s.txValid
    txData := if s.txValid then s.txByte else 0 }

end Sys2Proof.Machine
end

