-- ==== Sys2Proof/Machine/Reserved.lean ====
section
/-! DEFINITION. The reserved ops (R86): accepted like any other command, and answered with IllegalCommand. -/

namespace Sys2Proof.Machine

/-- Op 0b000 (R86). -/
def execReserved000 (s : State) : Result := raise .illegalCommand 0 (s.accept .reserved000)

/-- Op 0b110 (R86). -/
def execReserved110 (s : State) : Result := raise .illegalCommand 0 (s.accept .reserved110)

/-- Op 0b111 (R86). -/
def execReserved111 (s : State) : Result := raise .illegalCommand 0 (s.accept .reserved111)

end Sys2Proof.Machine
end

