-- ==== Sys2Proof/Machine/Dispatch.lean ====
section
/-! DEFINITION. One arm per command of R82. -/

namespace Sys2Proof.Machine

/-- The transaction-level step of one command (R13). -/
def exec (i : Instr) (s : State) : Host.Outcome State Fault Refusal :=
  match i with
  | .openNone => Sys2Proof.Machine.execOpenNone s
  | .openIdx idx => Sys2Proof.Machine.execOpenIdx idx s
  | .close => Sys2Proof.Machine.execClose s
  | .write addr wlen word => Sys2Proof.Machine.execWrite addr wlen word s
  | .check addr wlen => Sys2Proof.Machine.execCheck addr wlen s
  | .encode addr word => Sys2Proof.Machine.execEncode addr word s
  | .reserved000 => Sys2Proof.Machine.execReserved000 s
  | .reserved110 => Sys2Proof.Machine.execReserved110 s
  | .reserved111 => Sys2Proof.Machine.execReserved111 s

end Sys2Proof.Machine
end

