-- ==== Sys2Proof/Machine/Step.lean ====
section
/-! DEFINITION. The machine's step. Where the coming edge accepts a command, the step is that command's whole transaction (R13,
R200); otherwise it is the edge itself: a reset, a wait, an answer to a command left waiting, or the taking of a response. -/

namespace Sys2Proof.Machine

/-- One step. -/
def step (s : State) : Host.Outcome State Fault Refusal :=
  if s.accepting then exec s.fetched s else .next s.edge

/-- `s` with the caller presenting the command whose CMDW is `w` at the coming edge, to an idle core that is not in reset. -/
def State.withFetchWord (s : State) (nbits w : Nat) : State :=
  { s with
    seq := .idle
    pins := { s.pins with rst := false, cmdValid := true, cmd := fieldsOf s.cfg (w % 2 ^ nbits) } }

end Sys2Proof.Machine
end

