-- ==== Sys2Proof/Machine/Assembler.lean ====
section
/-! DEFINITION. The assembler notation of R87: the fields each text presents, and the texts that have no encoding. -/

namespace Sys2Proof.Machine

/-- The texts of R87. -/
inductive Text where
  | openNone
  | openIdx (i : Nat)
  | close
  | write (a : Nat) (bs : List Byte)
  | check (a : Nat) (bs : List Byte)
  | encode (a : Nat) (b0 b1 b2 b3 b4 : Byte)
  /-- `.op <v>`. -/
  | op (v : Nat)
deriving DecidableEq, Repr

/-- Which number of a text has no encoding (R87, 93 I15). -/
inductive NoEncoding where
  /-- `a ≥ 2^ADDR_W`. -/
  | address
  /-- A byte list of `2^WLEN_W` bytes or more. -/
  | length
  /-- `i ≥ 2^PORT_W`. -/
  | index
  /-- An op of more than three bits. -/
  | op
deriving DecidableEq, Repr

/-- The word a byte list presents: its first five bytes, and 0 where it has fewer (R87). -/
def presentedWord (bs : List Byte) : Word := Vector.ofFn fun j => bs.getD j.val 0

/-- The fields of a text that carries an address and a byte list. -/
def assembleBytes (cfg : Config) (op : BitVec 3) (a : Nat) (bs : List Byte) : Except NoEncoding Cmd :=
  if 2 ^ cfg.addrW ≤ a then .error .address
  else if 2 ^ cfg.wlenW ≤ bs.length then .error .length
  else .ok { Cmd.zero with
    op := op, addr := BitVec.ofNat 64 a, wlen := BitVec.ofNat 16 bs.length, word := busOfWord (presentedWord bs) }

/-- The fields a text stands for; a field its row does not name is 0 (R87). -/
def assemble (cfg : Config) : Text → Except NoEncoding Cmd
  | .openNone => .ok { Cmd.zero with op := 0b001 }
  | .openIdx i =>
    if 2 ^ cfg.portW ≤ i then .error .index
    else .ok { Cmd.zero with op := 0b001, idxGiven := true, idx := BitVec.ofNat 16 i }
  | .close => .ok { Cmd.zero with op := 0b010 }
  | .write a bs => assembleBytes cfg 0b011 a bs
  | .check a bs => assembleBytes cfg 0b100 a bs
  | .encode a b0 b1 b2 b3 b4 =>
    if 2 ^ cfg.addrW ≤ a then .error .address
    else .ok { Cmd.zero with op := 0b101, addr := BitVec.ofNat 64 a, word := busOfWord #v[b0, b1, b2, b3, b4] }
  | .op v => if 2 ^ 3 ≤ v then .error .op else .ok { Cmd.zero with op := BitVec.ofNat 3 v }

/-- The text presents the fields `c`, and they are the command `i`. -/
abbrev Text.StandsFor (cfg : Config) (t : Text) (c : Cmd) (i : Instr) : Prop := assemble cfg t = .ok c ∧ decodeCmd c = i

end Sys2Proof.Machine
end

