-- ==== Sys2Proof/Safety.lean ====
section
/-! DEFINITION. The terms claims are stated in: what the external agents do at an edge and over several (R185, R186), the
responses the status table allows (R170), the invariant of the core's registers, and a run without a program error (93 I12). -/

namespace Sys2Proof.Machine

/-! ## What the agents do -/

/-- The PHY neither accepts nor refuses the presented byte. -/
abbrev Pins.TxWait (p : Pins) : Prop := p.rst = false ∧ p.txErr = false ∧ p.txReady = false

/-- The PHY accepts the presented byte. -/
abbrev Pins.TxAccept (p : Pins) : Prop := p.rst = false ∧ p.txErr = false ∧ p.txReady = true

/-- The PHY refuses the presented byte, whatever `tx_ready` says. -/
abbrev Pins.TxRefuse (p : Pins) : Prop := p.rst = false ∧ p.txErr = true

/-- The PHY has not finished its open attempt. -/
abbrev Pins.OpenWait (p : Pins) : Prop := p.rst = false ∧ p.phyOpenDone = false

/-- The PHY answers its open attempt with `ok`. -/
abbrev Pins.OpenAnswer (ok : Bool) (p : Pins) : Prop := p.rst = false ∧ p.phyOpenDone = true ∧ p.phyOpenOk = ok

/-- The PHY has not closed its handle. -/
abbrev Pins.CloseWait (p : Pins) : Prop := p.rst = false ∧ p.phyCloseDone = false

/-- The PHY has closed its handle. -/
abbrev Pins.CloseDone (p : Pins) : Prop := p.rst = false ∧ p.phyCloseDone = true

/-- The agent that the core waits for in sequencer state `q` does not answer (R187); in IDLE the caller presents nothing. -/
def Pins.Silent (p : Pins) (q : Seq) : Prop :=
  match q with
  | .idle => p.cmdValid = false
  | .phyOpen => p.phyOpenDone = false
  | .tx => p.txErr = false ∧ p.txReady = false
  | .phyClose => p.phyCloseDone = false
  | .resp => p.respReady = false

/-- An answer: the edges an agent lets pass, and the edge at which it answers. -/
structure Answer where
  waits : List Pins
  last : Pins
deriving DecidableEq, Repr

/-- The edges of one answer. -/
def Answer.edges (a : Answer) : List Pins := a.waits ++ [a.last]

/-- The edges of several answers, one after another. -/
def answerEdges (as : List Answer) : List Pins := as.flatMap Answer.edges

/-- An answer whose waits satisfy `w` and whose last edge satisfies `l`. -/
abbrev Answer.Is (w l : Pins → Prop) (a : Answer) : Prop := (∀ p ∈ a.waits, w p) ∧ l a.last

/-- The PHY accepts every byte of a send, each after any wait. -/
abbrev AllAccept (as : List Answer) : Prop := ∀ a ∈ as, a.Is Pins.TxWait Pins.TxAccept

/-! ## The states of the rules -/

/-- The state after the acceptance of a command whose fields are these (R27, R200): the latches hold them, `link_next` is
`link_q`, and the pins are those of the next edge. -/
def State.acceptedAs (s : State) (op : BitVec 3) (idxGiven : Bool) (idx : PortIdx) (wlen : WLen) (addr : Addr) (word : Word) :
    State :=
  { s with
    opQ := op, idxGivenQ := idxGiven, idxQ := idx, wlenQ := wlen, addrQ := addr, wordQ := word, linkNext := s.linkQ
    pins := s.later.headD Pins.quiet, later := s.later.tail }

/-- The word the channel presents at the coming edge. -/
def State.presentedWord (s : State) : Word := wordOfBus s.presented.word

/-- The write frame of R88, byte by byte. -/
def writeFrame (addr : Addr) (word : Word) : Frame :=
  #v[0xAA, 0xAA, addr.extractLsb' 4 8, addr.extractLsb' 0 4 ++ word[0].extractLsb' 0 4, word[1], word[2], word[3], word[4], 0xAA]

/-- The bytes of `bs` as the PHY has accepted them, in order. -/
def bytesOf (bs : List Byte) : List PhyEvent := bs.map PhyEvent.byte

/-- The bytes among what was handed to the PHY. -/
def wireOf (es : List PhyEvent) : List Byte :=
  es.filterMap fun e => match e with
    | .byte b => some b
    | .openReq _ => none
    | .closeReq => none

/-- OPEN with no index, or with one: the two forms of one command. -/
def openOf : Option PortIdx → Instr
  | none => .openNone
  | some idx => .openIdx idx

/-- The whole of what a command can send (R89, R90). -/
def wholeSend : Instr → List Byte
  | .openNone => List.replicate 8 0xFF
  | .openIdx _ => List.replicate 8 0xFF
  | .close => [0xFF]
  | .write addr _ word => (writeFrame addr word).toList
  | .check _ _ => []
  | .encode _ _ => []
  | .reserved000 => []
  | .reserved110 => []
  | .reserved111 => []

/-! ## The status table -/

/-- A response that carries nothing but its status and count (R171). -/
abbrev Response.Plain (r : Response) : Prop := r.flag = false ∧ r.frame = 0

/-- The responses R170, with R134, R171 and the rows of R172, allow for a command whose latched op and idx_given are these. -/
def responseAllowed (op : BitVec 3) (idxGiven : Bool) (r : Response) : Prop :=
  if op = 0b001 then
    r.Plain ∧
      ((r.status = .ok ∧ r.count = 8) ∨ (r.status = .noPortsPresent ∧ r.count = 0) ∨
        (r.status = .invalidPortSelectionAmbiguous ∧ r.count = 0 ∧ idxGiven = false) ∨
        (r.status = .invalidPortSelectionRange ∧ r.count = 0 ∧ idxGiven = true) ∨
        (r.status = .cannotOpenPort ∧ r.count = 0) ∨ (r.status = .badLinkState ∧ r.count = 0) ∨
        (r.status = .linkWriteFailed ∧ r.count ≤ 7))
  else if op = 0b010 then
    r.Plain ∧ ((r.status = .ok ∧ r.count ≤ 1) ∨ (r.status = .linkWriteFailed ∧ r.count = 0))
  else if op = 0b011 then
    r.Plain ∧
      ((r.status = .ok ∧ (r.count = 0 ∨ r.count = 9)) ∨ (r.status = .encodingOverflow ∧ r.count = 0) ∨
        (r.status = .linkWriteFailed ∧ r.count ≤ 8))
  else if op = 0b100 then r.status = .ok ∧ r.count = 0 ∧ r.frame = 0
  else if op = 0b101 then
    r.count = 0 ∧ r.flag = false ∧ (r.status = .ok ∨ (r.status = .encodingOverflow ∧ r.frame = 0))
  else r.Plain ∧ r.status = .illegalCommand ∧ r.count = 0

/-! ## The invariant -/

/-- The latches that are narrower than their type hold a value of their own width (R27, R29). -/
structure State.Fits (s : State) : Prop where
  idx : s.idxQ.toNat < 2 ^ s.cfg.portW
  sel : s.selQ.toNat < 2 ^ s.cfg.portW
  addr : s.addrQ.toNat < 2 ^ s.cfg.addrW
  wlen : s.wlenQ.toNat < 2 ^ s.cfg.wlenW

/-- A WRITE in TX: its guard held, and its whole frame is in `tx_buf` (R30, R131). -/
structure State.SendingWrite (s : State) : Prop where
  op : s.opQ = 0b011
  link : s.linkQ = .opened ∧ s.linkNext = .opened
  send : s.txLen = 9 ∧ s.afterTxQ = false
  window : s.cfg.winBottom ≤ s.addrQ.toNat ∧ s.addrQ.toNat < s.cfg.winTop ∧ s.addrQ.toNat < 4096 ∧ s.wlenQ = 5
  frame : s.txBuf = writeFrame s.addrQ s.wordQ

/-- An OPEN in TX: the PHY handle is open and `link` is still Closed (R31, R150). -/
structure State.SendingHandshake (s : State) : Prop where
  op : s.opQ = 0b001
  link : s.linkQ = .closed ∧ s.linkNext = .opened
  send : s.txLen = 8 ∧ s.afterTxQ = false
  frame : s.txBuf.toList.take 8 = List.replicate 8 0xFF

/-- A CLOSE in TX (R155). -/
structure State.SendingShutdown (s : State) : Prop where
  op : s.opQ = 0b010
  link : s.linkQ = .opened ∧ s.linkNext = .closed
  send : s.txLen = 1 ∧ s.afterTxQ = true
  frame : s.txBuf.toList.take 1 = [0xFF]

/-- What the registers of a command in progress hold in each sequencer state. -/
def State.InPhase (s : State) : Prop :=
  match s.seq with
  | .idle => s.linkNext = s.linkQ
  | .phyOpen => s.opQ = 0b001 ∧ s.linkQ = .closed ∧ s.linkNext = .closed
  | .tx => s.txFail = false ∧ s.txIdx < s.txLen ∧ (s.SendingWrite ∨ s.SendingHandshake ∨ s.SendingShutdown)
  | .phyClose =>
    s.opQ = 0b010 ∧ s.linkQ = .opened ∧ s.linkNext = .closed ∧ s.txIdx = if s.txFail then 0 else 1
  | .resp => s.linkNext = s.linkQ ∧ responseAllowed s.opQ s.idxGivenQ s.resp

/-- The invariant of the core. -/
structure State.Inv (s : State) : Prop where
  fits : s.Fits
  inPhase : s.InPhase

/-! ## Program errors -/

/-- The commands whose ops are reserved (R86). -/
def isReserved : Instr → Bool
  | .openNone => false
  | .openIdx _ => false
  | .close => false
  | .write _ _ _ => false
  | .check _ _ => false
  | .encode _ _ => false
  | .reserved000 => true
  | .reserved110 => true
  | .reserved111 => true

/-- The record of program errors of 93 I12: no response that has been taken or stands presented is IllegalCommand. DESIGN CHOICE
(notes/assumptions/17.md): the spec does not say whether a reserved op whose response a reset edge withdraws before it is taken
(R211) still counts; here it does not, so the predicate may hold again after that edge. -/
def State.ProgramErrorFree (s : State) : Prop :=
  (∀ r ∈ s.delivered, r.status ≠ .illegalCommand) ∧ (s.seq = .resp → s.resp.status ≠ .illegalCommand)

end Sys2Proof.Machine
end

