-- ==== Sys2Proof/Certificates/Slice0/Obligations.lean ====
section
/-! DEFINITION. The statements for the provers. Each docstring names the rules of spec/ it formalises. A next state is written
out as the state before with every register that changes, so each such statement is also the command's frame: link, registers,
configuration, what was handed to the PHY and the responses delivered are as before unless they are named. The pins, the later
edges, the trace and the delivered responses are the model's own fields (notes/assumptions/1.md, 2.md). That the operand latches
hold the fields a command ignores as the channel presents them is R27 as notes/assumptions/4.md reads it beside R44. -/

open Sys2Proof Sys2Proof.Machine

/-! ## Commands that end at their acceptance edge -/

/-- R86: a reserved op is accepted and answered with IllegalCommand; no byte, no request, `link` unchanged.
That every operand latch takes what the channel presents (R27, R200), though a reserved op reads no operand, is
notes/assumptions/4.md (DEDUCED), not R86. -/
def Obligations.ReservedOpsAnswerIllegalCommand : Prop :=
  ∀ (s : State) (i : Instr) (op : BitVec 3),
    (i, op) ∈ [(Instr.reserved000, 0b000#3), (Instr.reserved110, 0b110#3), (Instr.reserved111, 0b111#3)] →
    exec i s = .next
      { s.acceptedAs op s.presented.idxGiven s.presented.idx s.presented.wlen s.presented.addr s.presentedWord with
        resp := { status := .illegalCommand, count := 0, flag := false, frame := 0 }
        seq := .resp }

/-- R130 and R121: CHECK always completes with OK, and its flag is the conjunction of the window, length and link checks.
That the latches of idx_given, idx and word, which CHECK ignores, take what the channel presents (R27) is
notes/assumptions/4.md (DEDUCED). -/
def Obligations.CheckAnswersTheGuard : Prop :=
  ∀ (s : State) (addr : Addr) (wlen : WLen), addr.toNat < 2 ^ s.cfg.addrW → wlen.toNat < 2 ^ s.cfg.wlenW →
    exec (.check addr wlen) s = .next
      { s.acceptedAs 0b100 s.presented.idxGiven s.presented.idx wlen addr s.presentedWord with
        resp :=
          { status := .ok, count := 0
            flag := decide (s.cfg.winBottom ≤ addr.toNat ∧ addr.toNat < s.cfg.winTop ∧ wlen.toNat = s.cfg.wordLen ∧
              s.linkQ = .opened)
            frame := 0 }
        seq := .resp }

/-- R105: ENCODE answers with the frame of R88, byte k at bits `[8k+7 : 8k]`, or with EncodingOverflow exactly from address
4096 on; it has no effect on the wire. That the latches of idx_given, idx and wlen, which ENCODE ignores, take what the channel
presents (R27) is notes/assumptions/4.md (DEDUCED). -/
def Obligations.EncodeAnswersTheFrameOrOverflow : Prop :=
  ∀ (s : State) (addr : Addr) (word : Word), addr.toNat < 2 ^ s.cfg.addrW →
    exec (.encode addr word) s = .next
      { s.acceptedAs 0b101 s.presented.idxGiven s.presented.idx s.presented.wlen addr word with
        resp :=
          if addr.toNat < 4096 then
            { status := .ok, count := 0, flag := false
              frame := 0xAA#8 ++ word[4] ++ word[3] ++ word[2] ++ word[1]
                ++ (addr.extractLsb' 0 4 ++ word[0].extractLsb' 0 4) ++ addr.extractLsb' 4 8 ++ 0xAA#8 ++ 0xAA#8 }
          else { status := .encodingOverflow, count := 0, flag := false, frame := 0 }
        seq := .resp }

/-! ## WRITE -/

/-- R132: a WRITE whose guard is false sends no byte, issues no request, leaves `link` and answers OK with count 0. That the
latches of idx_given and idx, which WRITE ignores, take what the channel presents (R27) is notes/assumptions/4.md (DEDUCED). -/
def Obligations.WriteSoftRejection : Prop :=
  ∀ (s : State) (addr : Addr) (wlen : WLen) (word : Word),
    addr.toNat < 2 ^ s.cfg.addrW → wlen.toNat < 2 ^ s.cfg.wlenW →
    ¬ (s.cfg.winBottom ≤ addr.toNat ∧ addr.toNat < s.cfg.winTop ∧ wlen.toNat = s.cfg.wordLen ∧ s.linkQ = .opened) →
    exec (.write addr wlen word) s = .next
      { s.acceptedAs 0b011 s.presented.idxGiven s.presented.idx wlen addr word with
        resp := { status := .ok, count := 0, flag := false, frame := 0 }
        seq := .resp }

/-- R131, R133: inside the window but from address 4096 on, WRITE reports EncodingOverflow and no byte is sent. That the latches
of idx_given and idx, which WRITE ignores, take what the channel presents (R27) is notes/assumptions/4.md (DEDUCED). -/
def Obligations.WriteOverflowInsideTheWindow : Prop :=
  ∀ (s : State) (addr : Addr) (wlen : WLen) (word : Word),
    s.cfg.winBottom ≤ addr.toNat → addr.toNat < s.cfg.winTop → wlen = 5 → s.linkQ = .opened → 4096 ≤ addr.toNat →
    exec (.write addr wlen word) s = .next
      { s.acceptedAs 0b011 s.presented.idxGiven s.presented.idx wlen addr word with
        resp := { status := .encodingOverflow, count := 0, flag := false, frame := 0 }
        seq := .resp }

/-- R131: with the guard true, an encodable address and a PHY that accepts every byte after any wait, the nine bytes of R88 are
handed over in order and the answer is OK with count 9. That the latches of idx_given and
idx, which WRITE ignores, take what the channel presents (R27) is notes/assumptions/4.md (DEDUCED). -/
def Obligations.WriteSendsTheFrame : Prop :=
  ∀ (s : State) (addr : Addr) (wlen : WLen) (word : Word) (as : List Answer) (rest : List Pins),
    s.cfg.winBottom ≤ addr.toNat → addr.toNat < s.cfg.winTop → wlen = 5 → s.linkQ = .opened → addr.toNat < 4096 →
    AllAccept as → as.length = 9 → s.later = answerEdges as ++ rest →
    exec (.write addr wlen word) s = .next
      { s.acceptedAs 0b011 s.presented.idxGiven s.presented.idx wlen addr word with
        txBuf := writeFrame addr word, txLen := 9, txIdx := 9, txFail := false, afterTxQ := false
        resp := { status := .ok, count := 9, flag := false, frame := 0 }
        seq := .resp
        trace := s.trace ++ bytesOf (writeFrame addr word).toList
        pins := rest.headD Pins.quiet, later := rest.tail }

/-- R131, R67: where the PHY refuses the byte with index k, the k bytes before it have been handed over, nothing more is sent, and
the answer is LinkWriteFailed with count k. That the latches of idx_given and
idx, which WRITE ignores, take what the channel presents (R27) is notes/assumptions/4.md (DEDUCED). -/
def Obligations.WriteReportsTheRefusedByte : Prop :=
  ∀ (s : State) (addr : Addr) (wlen : WLen) (word : Word) (as : List Answer) (refusal : Answer) (rest : List Pins),
    s.cfg.winBottom ≤ addr.toNat → addr.toNat < s.cfg.winTop → wlen = 5 → s.linkQ = .opened → addr.toNat < 4096 →
    AllAccept as → as.length ≤ 8 → refusal.Is Pins.TxWait Pins.TxRefuse →
    s.later = answerEdges as ++ refusal.edges ++ rest →
    exec (.write addr wlen word) s = .next
      { s.acceptedAs 0b011 s.presented.idxGiven s.presented.idx wlen addr word with
        txBuf := writeFrame addr word, txLen := 9, txIdx := BitVec.ofNat 4 as.length, txFail := true, afterTxQ := false
        resp := { status := .linkWriteFailed, count := BitVec.ofNat 4 as.length, flag := false, frame := 0 }
        seq := .resp
        trace := s.trace ++ bytesOf ((writeFrame addr word).toList.take as.length)
        pins := rest.headD Pins.quiet, later := rest.tail }

/-- R134: what WRITE's response tells the caller, on every path that ends: OK with count 9 is a frame handed over whole, OK with
count 0 a soft rejection, no OK has another count, and every other status is EncodingOverflow or LinkWriteFailed. -/
def Obligations.WriteResponseTellsWhatHappened : Prop :=
  ∀ (s t : State) (addr : Addr) (wlen : WLen) (word : Word),
    exec (.write addr wlen word) s = .next t → t.seq = .resp →
    (t.resp.status = .ok ∧ t.resp.count = 9 ∧ t.trace = s.trace ++ bytesOf (writeFrame addr word).toList ∧
        guard s.cfg addr wlen s.linkQ = true) ∨
      (t.resp.status = .ok ∧ t.resp.count = 0 ∧ t.trace = s.trace ∧ guard s.cfg addr wlen s.linkQ = false) ∨
      (t.resp.status = .encodingOverflow ∧ t.resp.count = 0 ∧ t.trace = s.trace ∧ 4096 ≤ addr.toNat) ∨
      (t.resp.status = .linkWriteFailed ∧ t.resp.count ≤ 8 ∧
        t.trace = s.trace ++ bytesOf ((writeFrame addr word).toList.take t.resp.count.toNat))

/-! ## OPEN -/

/-- R150: from Closed, with a valid selection, a PHY open that succeeds and a PHY that accepts every byte, OPEN asks for the
selected port, sends eight bytes 0xFF, makes `link` Open and answers OK with count 8. That the latches of wlen, addr and
word, and of idx where none is given, take what the channel presents (R27) though OPEN ignores them is notes/assumptions/4.md
(DEDUCED). -/
def Obligations.OpenSendsTheHandshake : Prop :=
  ∀ (s : State) (o : Option PortIdx) (n : Nat) (sel : PortIdx) (opening : Answer) (as : List Answer) (rest : List Pins),
    s.linkQ = .closed → n = s.pins.portCount.toNat % 2 ^ s.cfg.portW →
    (o = none ∧ n = 1 ∧ sel = 0) ∨ (o = some sel ∧ sel.toNat < n) →
    opening.Is Pins.OpenWait (Pins.OpenAnswer true) → AllAccept as → as.length = 8 →
    s.later = opening.edges ++ answerEdges as ++ rest →
    exec (openOf o) s = .next
      { s.acceptedAs 0b001 o.isSome (o.getD s.presented.idx) s.presented.wlen s.presented.addr s.presentedWord with
        selQ := sel, linkQ := .opened, linkNext := .opened
        txBuf := Vector.ofFn fun k => if k.val < 8 then 0xFF else s.txBuf[k]
        txLen := 8, txIdx := 8, txFail := false, afterTxQ := false
        resp := { status := .ok, count := 8, flag := false, frame := 0 }
        seq := .resp
        trace := s.trace ++ (.openReq sel :: bytesOf (List.replicate 8 0xFF))
        pins := rest.headD Pins.quiet, later := rest.tail }

/-- R152: where the PHY open succeeds and the PHY refuses the handshake byte with index k, `link` is Open all the same and the
answer is LinkWriteFailed with count k. That the latches of wlen, addr and
word, and of idx where none is given, take what the channel presents (R27) though OPEN ignores them is notes/assumptions/4.md
(DEDUCED). -/
def Obligations.OpenHandshakeFailureLeavesTheLinkOpen : Prop :=
  ∀ (s : State) (o : Option PortIdx) (n : Nat) (sel : PortIdx) (opening : Answer) (as : List Answer) (refusal : Answer)
    (rest : List Pins),
    s.linkQ = .closed → n = s.pins.portCount.toNat % 2 ^ s.cfg.portW →
    (o = none ∧ n = 1 ∧ sel = 0) ∨ (o = some sel ∧ sel.toNat < n) →
    opening.Is Pins.OpenWait (Pins.OpenAnswer true) → AllAccept as → as.length ≤ 7 →
    refusal.Is Pins.TxWait Pins.TxRefuse → s.later = opening.edges ++ answerEdges as ++ refusal.edges ++ rest →
    exec (openOf o) s = .next
      { s.acceptedAs 0b001 o.isSome (o.getD s.presented.idx) s.presented.wlen s.presented.addr s.presentedWord with
        selQ := sel, linkQ := .opened, linkNext := .opened
        txBuf := Vector.ofFn fun k => if k.val < 8 then 0xFF else s.txBuf[k]
        txLen := 8, txIdx := BitVec.ofNat 4 as.length, txFail := true, afterTxQ := false
        resp := { status := .linkWriteFailed, count := BitVec.ofNat 4 as.length, flag := false, frame := 0 }
        seq := .resp
        trace := s.trace ++ (.openReq sel :: bytesOf (List.replicate as.length 0xFF))
        pins := rest.headD Pins.quiet, later := rest.tail }

/-- R150: where the PHY open fails, no handshake is sent, `link` stays Closed and the answer is CannotOpenPort. That the latches
of wlen, addr and word, and of idx where none is given, take what the channel presents (R27) though OPEN ignores them is
notes/assumptions/4.md (DEDUCED). -/
def Obligations.OpenRefusedByThePhy : Prop :=
  ∀ (s : State) (o : Option PortIdx) (n : Nat) (sel : PortIdx) (opening : Answer) (rest : List Pins),
    s.linkQ = .closed → n = s.pins.portCount.toNat % 2 ^ s.cfg.portW →
    (o = none ∧ n = 1 ∧ sel = 0) ∨ (o = some sel ∧ sel.toNat < n) →
    opening.Is Pins.OpenWait (Pins.OpenAnswer false) → s.later = opening.edges ++ rest →
    exec (openOf o) s = .next
      { s.acceptedAs 0b001 o.isSome (o.getD s.presented.idx) s.presented.wlen s.presented.addr s.presentedWord with
        selQ := sel
        resp := { status := .cannotOpenPort, count := 0, flag := false, frame := 0 }
        seq := .resp
        trace := s.trace ++ [.openReq sel]
        pins := rest.headD Pins.quiet, later := rest.tail }

/-- R143, R144: the three invalid selections, each with its own status, and nothing asked of the PHY. That the latches of wlen,
addr and word, and of idx where none is given, take what the channel presents (R27) though OPEN ignores them is
notes/assumptions/4.md (DEDUCED). -/
def Obligations.OpenInvalidSelections : Prop :=
  ∀ (s : State) (o : Option PortIdx) (n : Nat) (e : Status),
    s.linkQ = .closed → n = s.pins.portCount.toNat % 2 ^ s.cfg.portW → (∀ idx, o = some idx → idx.toNat < 2 ^ s.cfg.portW) →
    (n = 0 ∧ e = .noPortsPresent) ∨ (1 < n ∧ o = none ∧ e = .invalidPortSelectionAmbiguous) ∨
      (0 < n ∧ (∃ idx, o = some idx ∧ n ≤ idx.toNat) ∧ e = .invalidPortSelectionRange) →
    exec (openOf o) s = .next
      { s.acceptedAs 0b001 o.isSome (o.getD s.presented.idx) s.presented.wlen s.presented.addr s.presentedWord with
        resp := { status := e, count := 0, flag := false, frame := 0 }
        seq := .resp }

/-- R151: an OPEN in Open answers BadLinkState whatever the port count and the index, asks the PHY for nothing, sends nothing and
leaves `link` Open. That the latches of wlen, addr and
word, and of idx where none is given, take what the channel presents (R27) though OPEN ignores them is notes/assumptions/4.md
(DEDUCED). -/
def Obligations.OpenWhileOpenIsBadLinkState : Prop :=
  ∀ (s : State) (o : Option PortIdx), s.linkQ = .opened → (∀ idx, o = some idx → idx.toNat < 2 ^ s.cfg.portW) →
    exec (openOf o) s = .next
      { s.acceptedAs 0b001 o.isSome (o.getD s.presented.idx) s.presented.wlen s.presented.addr s.presentedWord with
        resp := { status := .badLinkState, count := 0, flag := false, frame := 0 }
        seq := .resp }

/-! ## CLOSE -/

/-- R155: from Open, with the shutdown byte accepted, CLOSE sends 0xFF, then asks the PHY to close, makes `link` Closed and
answers OK with count 1. That all operand latches take what the channel presents (R27) though CLOSE ignores them is
notes/assumptions/4.md (DEDUCED). -/
def Obligations.CloseSendsTheShutdownByte : Prop :=
  ∀ (s : State) (sent closing : Answer) (rest : List Pins),
    s.linkQ = .opened → sent.Is Pins.TxWait Pins.TxAccept → closing.Is Pins.CloseWait Pins.CloseDone →
    s.later = sent.edges ++ closing.edges ++ rest →
    exec .close s = .next
      { s.acceptedAs 0b010 s.presented.idxGiven s.presented.idx s.presented.wlen s.presented.addr s.presentedWord with
        linkQ := .closed, linkNext := .closed
        txBuf := s.txBuf.set 0 0xFF, txLen := 1, txIdx := 1, txFail := false, afterTxQ := true
        resp := { status := .ok, count := 1, flag := false, frame := 0 }
        seq := .resp
        trace := s.trace ++ [.byte 0xFF, .closeReq]
        pins := rest.headD Pins.quiet, later := rest.tail }

/-- R157: where the shutdown byte is refused, the PHY is asked to close and `link` becomes Closed all the same, and the answer is
LinkWriteFailed with count 0. That all operand latches take what
the channel presents (R27) though CLOSE ignores them is notes/assumptions/4.md (DEDUCED). -/
def Obligations.CloseGoesOnAfterARefusedByte : Prop :=
  ∀ (s : State) (refusal closing : Answer) (rest : List Pins),
    s.linkQ = .opened → refusal.Is Pins.TxWait Pins.TxRefuse → closing.Is Pins.CloseWait Pins.CloseDone →
    s.later = refusal.edges ++ closing.edges ++ rest →
    exec .close s = .next
      { s.acceptedAs 0b010 s.presented.idxGiven s.presented.idx s.presented.wlen s.presented.addr s.presentedWord with
        linkQ := .closed, linkNext := .closed
        txBuf := s.txBuf.set 0 0xFF, txLen := 1, txIdx := 0, txFail := true, afterTxQ := true
        resp := { status := .linkWriteFailed, count := 0, flag := false, frame := 0 }
        seq := .resp
        trace := s.trace ++ [.closeReq]
        pins := rest.headD Pins.quiet, later := rest.tail }

/-- R156: a CLOSE in Closed sends nothing, asks for nothing, leaves `link` Closed and answers OK with count 0. That all operand
latches take what the channel presents (R27) though CLOSE ignores them is notes/assumptions/4.md (DEDUCED). -/
def Obligations.CloseWhileClosedDoesNothing : Prop :=
  ∀ (s : State), s.linkQ = .closed →
    exec .close s = .next
      { s.acceptedAs 0b010 s.presented.idxGiven s.presented.idx s.presented.wlen s.presented.addr s.presentedWord with
        resp := { status := .ok, count := 0, flag := false, frame := 0 }
        seq := .resp }

/-! ## The frame encoder -/

/-- R101: `Encode` overflows exactly when the address is 4096 or more, which is the hardware's test of the address bits from 12
up; otherwise it gives the frame of R88. -/
def Obligations.EncoderOverflowsFrom4096 : Prop :=
  ∀ (addr : Addr) (word : Word),
    (encodeFrame addr word = none ↔ 4096 ≤ addr.toNat) ∧ (4096 ≤ addr.toNat ↔ addr.extractLsb' 12 52 ≠ 0) ∧
      (addr.toNat < 4096 → encodeFrame addr word = some (writeFrame addr word))

/-- R102: two words that differ in `word[0][7:4]` only give the same frame, and the same next state of ENCODE and of WRITE but for
the operand latch, which no output shows. -/
def Obligations.EncoderDiscardsTheUpperNibble : Prop :=
  ∀ (addr : Addr) (word other : Word) (upper : BitVec 4), other = word.set 0 (upper ++ word[0].extractLsb' 0 4) →
    encodeFrame addr other = encodeFrame addr word ∧
    (∀ (s t : State), exec (.encode addr word) s = .next t → exec (.encode addr other) s = .next { t with wordQ := other }) ∧
    (∀ (s t : State) (wlen : WLen), exec (.write addr wlen word) s = .next t →
      exec (.write addr wlen other) s = .next { t with wordQ := other }) ∧
    (∀ (t : State), State.outputs { t with wordQ := other } = t.outputs)

/-- R104: below 4096 two inputs give the same frame exactly when their addresses, low nibbles and other four bytes agree, and the
frame gives these back as the rule says. -/
def Obligations.EncoderInjectiveOnTheTriple : Prop :=
  (∀ (a b : Addr) (v w : Word), a.toNat < 4096 → b.toNat < 4096 →
    (encodeFrame a v = encodeFrame b w ↔
      a = b ∧ v[0] &&& 0x0F#8 = w[0] &&& 0x0F#8 ∧ v[1] = w[1] ∧ v[2] = w[2] ∧ v[3] = w[3] ∧ v[4] = w[4])) ∧
  (∀ (a : Addr) (w : Word) (f : Frame), encodeFrame a w = some f →
    a = (f[2] ++ f[3].extractLsb' 4 4).setWidth 64 ∧ w[0] &&& 0x0F#8 = (f[3].extractLsb' 0 4).setWidth 8 ∧
      w[1] = f[4] ∧ w[2] = f[5] ∧ w[3] = f[6] ∧ w[4] = f[7])

/-! ## Encodings -/

/-- R80, R82, R87: every well-formed command, with every operand at every value its field admits, decodes from its CMDW. -/
def Obligations.DecodeReadsBackEveryEncoding : Prop :=
  ∀ (cfg : Config) (i : Instr), i.wellFormed cfg = true → decode cfg (encode cfg i) = .ok i

/-- R82, R83, R84: the fields presented are the command `i` exactly when setting `i`'s own fields in them changes nothing; the
fields `i` ignores are free. -/
def Obligations.DecodingLooksAtTheFieldsReadOnly : Prop :=
  ∀ (c : Cmd) (i : Instr), decodeCmd c = i ↔ encodeOver i c = c

/-- R80, R83, 93 I15: every CMDW decodes, to a command that fits the configuration, and is the packing of its fields; a wider
number is refused. -/
def Obligations.EveryCommandWordDecodes : Prop :=
  ∀ (cfg : Config) (w : Nat),
    (w < 2 ^ (3 + 1 + cfg.portW + cfg.wlenW + cfg.addrW + 40) →
      packCmd cfg (fieldsOf cfg w) = w ∧
        ∃ i, decode cfg w = .ok i ∧ i.wellFormed cfg = true ∧ i = decodeCmd (fieldsOf cfg w)) ∧
    (2 ^ (3 + 1 + cfg.portW + cfg.wlenW + cfg.addrW + 40) ≤ w → decode cfg w = .error .notACommandWord)

/-- R80, R82: command words written out in the spec's vectors (95: O-3, O-10, K-1, Wr-9, G-2, E-3, X-1 to X-4). -/
def Obligations.PublishedCommandWordsDecode : Prop :=
  decode Config.standard 0x00000000000000000000001 = .ok .openNone ∧
  decode Config.standard 0x00000000000000000000FE9 = .ok (.openIdx 254) ∧
  decode Config.standard 0x00000000000000000000002 = .ok .close ∧
  decode Config.standard 0xEFBEADDE07000002A505003 = .ok (.write 0x2A5 5 #v[0x07, 0xDE, 0xAD, 0xBE, 0xEF]) ∧
  decode Config.standard 0x000000000000000FFF05004 = .ok (.check 0xFFF 5) ∧
  decode Config.standard 0x443322113E00000ABC00005 = .ok (.encode 0xABC #v[0x3E, 0x11, 0x22, 0x33, 0x44]) ∧
  decode Config.standard 0x00000000000000000000000 = .ok .reserved000 ∧
  decode Config.standard 0x0D0C0B0A050000000105006 = .ok .reserved110 ∧
  decode Config.standard 0x00000000000000000000007 = .ok .reserved111

/-- R87: what each text of the assembler notation presents, field by field, a field its row does not name being 0; the command
those fields are (R82); and that a text is refused exactly when a number of it has no encoding. -/
def Obligations.AssembledTextsAreTheirCommands : Prop :=
  ∀ (cfg : Config),
    Text.StandsFor cfg .openNone { op := 0b001, idxGiven := false, idx := 0, wlen := 0, addr := 0, word := 0 } .openNone ∧
    (∀ i, i < 2 ^ cfg.portW →
      Text.StandsFor cfg (.openIdx i)
        { op := 0b001, idxGiven := true, idx := BitVec.ofNat 16 i, wlen := 0, addr := 0, word := 0 }
        (.openIdx (BitVec.ofNat 16 i))) ∧
    (∀ i, 2 ^ cfg.portW ≤ i → assemble cfg (.openIdx i) = .error .index) ∧
    Text.StandsFor cfg .close { op := 0b010, idxGiven := false, idx := 0, wlen := 0, addr := 0, word := 0 } .close ∧
    (∀ (a : Nat) (bs : List Byte) (b : Nat → Byte), a < 2 ^ cfg.addrW → bs.length < 2 ^ cfg.wlenW →
      (∀ j, b j = if j < min bs.length 5 then bs.getD j 0 else 0) →
      Text.StandsFor cfg (.write a bs)
        { op := 0b011, idxGiven := false, idx := 0, wlen := BitVec.ofNat 16 bs.length, addr := BitVec.ofNat 64 a
          word := b 4 ++ b 3 ++ b 2 ++ b 1 ++ b 0 }
        (.write (BitVec.ofNat 64 a) (BitVec.ofNat 16 bs.length) #v[b 0, b 1, b 2, b 3, b 4]) ∧
      Text.StandsFor cfg (.check a bs)
        { op := 0b100, idxGiven := false, idx := 0, wlen := BitVec.ofNat 16 bs.length, addr := BitVec.ofNat 64 a
          word := b 4 ++ b 3 ++ b 2 ++ b 1 ++ b 0 }
        (.check (BitVec.ofNat 64 a) (BitVec.ofNat 16 bs.length))) ∧
    (∀ a bs, 2 ^ cfg.addrW ≤ a → assemble cfg (.write a bs) = .error .address ∧ assemble cfg (.check a bs) = .error .address) ∧
    (∀ a bs, a < 2 ^ cfg.addrW → 2 ^ cfg.wlenW ≤ bs.length →
      assemble cfg (.write a bs) = .error .length ∧ assemble cfg (.check a bs) = .error .length) ∧
    (∀ a b0 b1 b2 b3 b4, a < 2 ^ cfg.addrW →
      Text.StandsFor cfg (.encode a b0 b1 b2 b3 b4)
        { op := 0b101, idxGiven := false, idx := 0, wlen := 0, addr := BitVec.ofNat 64 a, word := b4 ++ b3 ++ b2 ++ b1 ++ b0 }
        (.encode (BitVec.ofNat 64 a) #v[b0, b1, b2, b3, b4])) ∧
    (∀ a b0 b1 b2 b3 b4, 2 ^ cfg.addrW ≤ a → assemble cfg (.encode a b0 b1 b2 b3 b4) = .error .address) ∧
    (∀ (v : Nat) (i : Instr),
      (v, i) ∈ [(0, Instr.reserved000), (1, .openNone), (2, .close), (3, .write 0 0 #v[0, 0, 0, 0, 0]), (4, .check 0 0),
        (5, .encode 0 #v[0, 0, 0, 0, 0]), (6, .reserved110), (7, .reserved111)] →
      Text.StandsFor cfg (.op v)
        { op := BitVec.ofNat 3 v, idxGiven := false, idx := 0, wlen := 0, addr := 0, word := 0 } i) ∧
    (∀ v, 8 ≤ v → assemble cfg (.op v) = .error .op)

/-! ## The step -/

/-- R13, R200: where the coming edge accepts a command, the step is `exec` of the command its fields decode to, with nothing
around it; everywhere else it is one clock edge. The second clause says it of a command word placed with `withFetchWord`. How much
one step does is the model's choice (notes/assumptions/5.md). -/
def Obligations.StepRunsThePresentedCommand : Prop :=
  (∀ (s : State), s.pins.rst = false → s.seq = .idle → s.pins.cmdValid = true →
    step s = exec (decodeCmd (s.pins.cmd.onWires s.cfg)) s) ∧
  (∀ (s : State) (nbits w : Nat) (i : Instr), decode s.cfg (w % 2 ^ nbits) = .ok i →
    step (s.withFetchWord nbits w) = exec i (s.withFetchWord nbits w)) ∧
  (∀ (s : State), ¬ (s.pins.rst = false ∧ s.seq = .idle ∧ s.pins.cmdValid = true) → step s = .next s.edge)

/-- R83, R174, R187: the run never ends; no step faults and none is refused. -/
def Obligations.EveryStepHasANextState : Prop := ∀ (s : State), ∃ t, step s = .next t

/-- 93 I15: a meaning refuses exactly the instructions that do not fit the configuration, and none faults. -/
def Obligations.OnlyUnpresentableCommandsAreRefused : Prop :=
  ∀ (i : Instr) (s : State),
    (∀ f, exec i s ≠ .fault f) ∧ (i.wellFormed s.cfg = false ↔ exec i s = .refused .notPresentable) ∧
      (i.wellFormed s.cfg = true ↔ ∃ t, exec i s = .next t)

/-- R71, R36: a step only appends to what was handed to the PHY, and delivers a response exactly when a presented one is taken
at a non-reset edge. -/
def Obligations.StepOnlyAppends : Prop :=
  ∀ (s t : State), step s = .next t →
    s.trace <+: t.trace ∧
      t.delivered =
        s.delivered ++ (if s.pins.rst = false ∧ s.seq = .resp ∧ s.pins.respReady = true then [s.resp] else [])

/-! ## The cycle level -/

/-- R206: for every accepted command and every sequence of later edges, the transaction reaches the state that single clock edges
reach, and until then the core is not idle, presents no response and shows the link state of before the command (R31). The
transaction ends with a response, or stands in a wait with a reset edge or no further edge on the pins; that it stops there is the
model's choice (notes/assumptions/5.md, DESIGN CHOICE). -/
def Obligations.TransactionRefinedByClockEdges : Prop :=
  ∀ (s : State), s.pins.rst = false → s.seq = .idle → s.pins.cmdValid = true →
    ∃ (n : Nat) (t : State), exec (decodeCmd (s.pins.cmd.onWires s.cfg)) s = .next t ∧ s.edges (n + 1) = t ∧
      (∀ m, 0 < m → m ≤ n →
        (s.edges m).linkQ = s.linkQ ∧ (s.edges m).seq ≠ .idle ∧ (s.edges m).seq ≠ .resp ∧ (s.edges m).pins.rst = false) ∧
      (t.seq = .resp ∨
        (t.linkQ = s.linkQ ∧ (t.seq = .phyOpen ∨ t.seq = .tx ∨ t.seq = .phyClose) ∧
          (t.pins.rst = true ∨ (t.pins = Pins.quiet ∧ t.later = []))))

/-- R202: in RESP no command can be accepted, and the response is taken when `resp_ready = 1` and held otherwise. -/
def Obligations.ResponseHeldUntilTaken : Prop :=
  ∀ (s : State), s.seq = .resp → s.pins.rst = false →
    s.outputs.cmdReady = false ∧
    s.edge =
      if s.pins.respReady then
        { s with
          seq := .idle, delivered := s.delivered ++ [s.resp], pins := s.later.headD Pins.quiet, later := s.later.tail }
      else { s with pins := s.later.headD Pins.quiet, later := s.later.tail }

/-- R203: in PHY_OPEN the selected port is asked for, and its edges are wait, failure and success. -/
def Obligations.PhyOpenEdges : Prop :=
  ∀ (s : State), s.seq = .phyOpen → s.pins.rst = false →
    (s.outputs.phyOpenReq = true ∧ s.outputs.phyOpenIdx = s.selQ) ∧
    (s.pins.phyOpenDone = false → s.edge = { s with pins := s.later.headD Pins.quiet, later := s.later.tail }) ∧
    (s.pins.phyOpenDone = true → s.pins.phyOpenOk = false →
      s.edge = { s with
        resp := { status := .cannotOpenPort, count := 0, flag := false, frame := 0 }, linkQ := s.linkNext, seq := .resp
        pins := s.later.headD Pins.quiet, later := s.later.tail }) ∧
    (s.pins.phyOpenDone = true → s.pins.phyOpenOk = true →
      s.edge = { s with
        linkNext := .opened, txBuf := Vector.ofFn fun k => if k.val < 8 then 0xFF else s.txBuf[k]
        txLen := 8, txIdx := 0, txFail := false, afterTxQ := false, seq := .tx
        pins := s.later.headD Pins.quiet, later := s.later.tail })

/-- R204: a byte of `tx_buf` is presented, and the three rows of the byte-transfer table decide, `tx_err` over `tx_ready`. The
bounds on `tx_idx` and `tx_len` are part of the invariant below. -/
def Obligations.ByteTransferEdges : Prop :=
  ∀ (s : State), s.seq = .tx → s.pins.rst = false → s.txIdx < s.txLen → s.txLen ≤ 9 →
    ∃ b, s.txBuf[s.txIdx.toNat]? = some b ∧ s.outputs.txValid = true ∧ s.outputs.txData = b ∧
      (s.pins.txErr = true →
        s.edge =
          if s.afterTxQ then
            { s with
              txFail := true, seq := .phyClose, trace := s.trace ++ [.closeReq]
              pins := s.later.headD Pins.quiet, later := s.later.tail }
          else
            { s with
              txFail := true, seq := .resp, linkQ := s.linkNext
              resp := { status := .linkWriteFailed, count := s.txIdx, flag := false, frame := 0 }
              pins := s.later.headD Pins.quiet, later := s.later.tail }) ∧
      (s.pins.txErr = false → s.pins.txReady = true →
        s.edge =
          if s.txIdx + 1 = s.txLen then
            if s.afterTxQ then
              { s with
                txIdx := s.txIdx + 1, seq := .phyClose, trace := s.trace ++ [.byte b, .closeReq]
                pins := s.later.headD Pins.quiet, later := s.later.tail }
            else
              { s with
                txIdx := s.txIdx + 1, seq := .resp, linkQ := s.linkNext, trace := s.trace ++ [.byte b]
                resp := { status := .ok, count := s.txLen, flag := false, frame := 0 }
                pins := s.later.headD Pins.quiet, later := s.later.tail }
          else
            { s with
              txIdx := s.txIdx + 1, trace := s.trace ++ [.byte b]
              pins := s.later.headD Pins.quiet, later := s.later.tail }) ∧
      (s.pins.txErr = false → s.pins.txReady = false →
        s.edge = { s with pins := s.later.headD Pins.quiet, later := s.later.tail })

/-- R205: in PHY_CLOSE the close is asked for, and its edges are wait and the response once the PHY has closed. -/
def Obligations.PhyCloseEdges : Prop :=
  ∀ (s : State), s.seq = .phyClose → s.pins.rst = false →
    s.outputs.phyCloseReq = true ∧
    s.edge =
      if s.pins.phyCloseDone then
        { s with
          resp := { status := if s.txFail then .linkWriteFailed else .ok, count := s.txIdx, flag := false, frame := 0 }
          linkQ := s.linkNext, seq := .resp, pins := s.later.headD Pins.quiet, later := s.later.tail }
      else { s with pins := s.later.headD Pins.quiet, later := s.later.tail }

/-- R43, R210, R211: an edge with `rst = 1` gives every register its reset value whatever else is on the pins and whatever was in
progress; no command is accepted, nothing is sent, asked or delivered, and the step is that edge. That a byte presented at a
reset edge is not handed over, even with `tx_ready = 1`, is notes/assumptions/2.md (DESIGN CHOICE; vector T-4 leaves it open). -/
def Obligations.ResetTakesPriority : Prop :=
  ∀ (s : State), s.pins.rst = true →
    s.outputs.cmdReady = false ∧
    step s = .next
      { s with
        linkQ := .closed, seq := .idle, opQ := 0, idxGivenQ := false, idxQ := 0, addrQ := 0, wordQ := #v[0, 0, 0, 0, 0], wlenQ := 0
        selQ := 0, afterTxQ := false, txBuf := #v[0, 0, 0, 0, 0, 0, 0, 0, 0], txLen := 0, txIdx := 0, txFail := false
        linkNext := .closed, resp := { status := .ok, count := 0, flag := false, frame := 0 }
        pins := s.later.headD Pins.quiet, later := s.later.tail }

/-- R43: every output of its list after reset, once `rst` is 0 again. -/
def Obligations.OutputsAfterReset : Prop :=
  ∀ (s t : State), s.pins.rst = true → step s = .next t → t.pins.rst = false →
    t.outputs.cmdReady = true ∧ t.outputs.respValid = false ∧ t.outputs.linkOpen = 0 ∧ t.outputs.phyOpenReq = false ∧
      t.outputs.phyCloseReq = false ∧ t.outputs.txValid = false ∧ t.outputs.txData = 0 ∧ t.outputs.phyOpenIdx = 0 ∧
      t.outputs.cfgBaud = 115200 ∧ t.outputs.cfgDataBits = 8 ∧ t.outputs.cfgStopBits = 2 ∧ t.outputs.cfgXonxoff = false ∧
      t.outputs.cfgRtscts = false

/-- R35, R36, R40, R42: in a state of the core, out of reset, exactly one of `cmd_ready`, `phy_open_req`, `tx_valid`,
`phy_close_req` and `resp_valid` is 1. -/
def Obligations.ExactlyOneHandshakeIsDriven : Prop :=
  ∀ (s : State), s.Inv → s.pins.rst = false →
    [s.outputs.cmdReady, s.outputs.phyOpenReq, s.outputs.txValid, s.outputs.phyCloseReq, s.outputs.respValid].count true = 1

/-- R44, R27: an input the core ignores at an edge changes nothing. On an acceptance edge the operand latches take the whole
channel (the model's reading of the two rules, notes/assumptions/4.md), and `port_count` matters for an OPEN in Closed only. -/
def Obligations.IgnoredInputsChangeNothing : Prop :=
  ∀ (s : State) (p : Pins), p.rst = s.pins.rst →
    (s.pins.rst = true ∨
      (s.seq = .idle ∧ s.pins.cmdValid = false ∧ p.cmdValid = false) ∨
      (s.seq = .idle ∧ s.pins.cmdValid = true ∧ p.cmdValid = true ∧ p.cmd.onWires s.cfg = s.pins.cmd.onWires s.cfg ∧
        (s.pins.cmd.op = 0b001 → s.linkQ = .closed →
          p.portCount.toNat % 2 ^ s.cfg.portW = s.pins.portCount.toNat % 2 ^ s.cfg.portW)) ∨
      (s.seq = .phyOpen ∧ p.phyOpenDone = s.pins.phyOpenDone ∧ (s.pins.phyOpenDone = true → p.phyOpenOk = s.pins.phyOpenOk)) ∨
      (s.seq = .tx ∧
        (s.outputs.txValid = false ∨ (p.txErr = s.pins.txErr ∧ (s.pins.txErr = false → p.txReady = s.pins.txReady)))) ∨
      (s.seq = .phyClose ∧ p.phyCloseDone = s.pins.phyCloseDone) ∨
      (s.seq = .resp ∧ p.respReady = s.pins.respReady)) →
    State.edge { s with pins := p } = s.edge

/-- R31, R37, R201: where a clock edge enters RESP, `link_q` takes `link_next` and the response is presented; the link state and
the response registers change at no other edge but a reset edge. -/
def Obligations.LinkAndResponseChangeOnlyOnEnteringResp : Prop :=
  ∀ (s : State), s.pins.rst = false →
    (s.seq ≠ .resp → s.edge.seq = .resp → s.edge.linkQ = s.edge.linkNext ∧ s.edge.outputs.respValid = true) ∧
    (s.edge.linkQ ≠ s.linkQ ∨ s.edge.resp ≠ s.resp → s.seq ≠ .resp ∧ s.edge.seq = .resp)

/-- R8, R41: the link constants are driven in every state. -/
def Obligations.LinkConstantsAreAlwaysDriven : Prop :=
  ∀ (s : State),
    s.outputs.cfgBaud = 115200 ∧ s.outputs.cfgDataBits = 8 ∧ s.outputs.cfgStopBits = 2 ∧ s.outputs.cfgXonxoff = false ∧
      s.outputs.cfgRtscts = false

/-- R187: as long as the agent the core waits for does not answer, whatever else is on the pins, every step only lets an edge pass
and no command can be accepted; where no agent does anything any more the core stands where it is for ever. -/
def Obligations.SilentAgentsLeaveTheCoreWaiting : Prop :=
  (∀ (s : State) (ws : List Pins) (next : Pins) (rest : List Pins), s.seq ≠ .idle →
    (∀ w ∈ ws, w.rst = false ∧ w.Silent s.seq) → s.pins :: s.later = ws ++ next :: rest →
    Host.Core.run Sys2Proof.core ws.length s = .next { s with pins := next, later := rest } ∧ s.outputs.cmdReady = false) ∧
  (∀ (s : State) (n : Nat), s.pins = Pins.quiet → s.later = [] → Host.Core.run Sys2Proof.core n s = .next s)

/-! ## Invariants -/

/-- The state after reset meets the invariant. -/
def Obligations.ResetMeetsTheInvariant : Prop := State.Inv State.reset

/-- Every step from a state that meets the invariant leads to one: the latches fit their fields, and in each sequencer state the
registers of the command in progress are what R30, R31, R150, R155, R170 and R200 to R205 make them; in RESP the response is one
R170's table allows for the command. -/
def Obligations.StepKeepsTheInvariant : Prop :=
  ∀ (s t : State), s.Inv → step s = .next t → t.Inv

/-- The same for single clock edges, where every intermediate state of a command is met. -/
def Obligations.ClockEdgeKeepsTheInvariant : Prop := ∀ (s : State), s.Inv → s.edge.Inv

/-! ## Rules about every command -/

/-- R170, R171, R172: from any state, a command that ends does so with a response its row of the status table allows. -/
def Obligations.EveryResponseIsInTheStatusTable : Prop :=
  ∀ (i : Instr) (s t : State), exec i s = .next t → t.seq = .resp →
    responseAllowed (encodeOver i Cmd.zero).op (encodeOver i s.presented).idxGiven t.resp

/-- R21, R140: a command other than OPEN and CLOSE leaves `link`; OPEN can only make it Open, and CLOSE can only make it Closed
and always does when it ends. -/
def Obligations.OnlyOpenAndCloseWriteLink : Prop :=
  ∀ (i : Instr) (s t : State), exec i s = .next t →
    (t.linkQ ≠ s.linkQ → (∃ o, i = openOf o ∧ s.linkQ = .closed ∧ t.linkQ = .opened) ∨ (i = .close ∧ t.linkQ = .closed)) ∧
    (i = .close → t.seq = .resp → t.linkQ = .closed)

/-- R67, R90, R36, R172: the bytes one command hands over are a leading part of the one frame it can send, `resp_count` is their
number, all of them are there when the status is OK and the command sent at all, and a status that reports a failed check comes
with nothing handed to the PHY. -/
def Obligations.BytesHandedOverAreAPartOfOneFrame : Prop :=
  ∀ (i : Instr) (s t : State), exec i s = .next t →
    ∃ es, t.trace = s.trace ++ es ∧ wireOf es <+: wholeSend i ∧
      (t.seq = .resp →
        t.resp.count.toNat = (wireOf es).length ∧
        (t.resp.status = .ok → wireOf es = [] ∨ wireOf es = wholeSend i) ∧
        (t.resp.status ≠ .ok → t.resp.status ≠ .linkWriteFailed → wireOf es = []) ∧
        (t.resp.status ≠ .ok → t.resp.status ≠ .linkWriteFailed → t.resp.status ≠ .cannotOpenPort → es = []))

/-- R22, R24, R84, R103: of what earlier commands left, a command sees `link` only. Two states that agree on the configuration, on
`link`, on the later edges and, for an OPEN in Closed, on the port count give the same response, the same `link`, the same
hand-overs and the same wait, whatever else differs. -/
def Obligations.CommandsSeeOnlyTheLinkState : Prop :=
  ∀ (i : Instr) (s t s' t' : State), s.cfg = t.cfg → s.linkQ = t.linkQ → s.later = t.later →
    (∀ o, i = openOf o → s.linkQ = .closed → s.portCount = t.portCount) →
    exec i s = .next s' → exec i t = .next t' →
    s'.linkQ = t'.linkQ ∧ s'.seq = t'.seq ∧ s'.later = t'.later ∧ (s'.seq = .resp → s'.resp = t'.resp) ∧
      ∃ es, s'.trace = s.trace ++ es ∧ t'.trace = t.trace ++ es

/-- R159: OPEN and CLOSE do the same whatever the window. -/
def Obligations.LifecycleIndependentOfTheWindow : Prop :=
  ∀ (i : Instr) (s t : State) (c : Config), (i = .close ∨ ∃ o, i = openOf o) →
    c.addrW = s.cfg.addrW → c.wlenW = s.cfg.wlenW → c.portW = s.cfg.portW →
    exec i s = .next t → exec i { s with cfg := c } = .next { t with cfg := c }

/-- 93 I12: a run whose commands are not reserved ops stays free of IllegalCommand, as `ProgramErrorFree` records it
(notes/assumptions/17.md, DESIGN CHOICE, for a response that a reset edge withdraws). -/
def Obligations.OnlyReservedOpsAreProgramErrors : Prop :=
  (∀ (i : Instr) (s t : State), exec i s = .next t → t.seq = .resp →
    (t.resp.status = .illegalCommand ↔ isReserved i = true)) ∧
  (∀ (s t : State), s.ProgramErrorFree → (s.accepting = true → isReserved s.fetched = false) → step s = .next t →
    t.ProgramErrorFree)

/-- R158: with a cooperative PHY, an OPEN that is followed at once by a CLOSE leaves `link` Closed, hands over the eight handshake
bytes and the shutdown byte and nothing else, and answers OK with count 8 and OK with count 1. Three steps: the OPEN, the taking
of its response, the CLOSE. -/
def Obligations.OpenThenCloseRoundTrip : Prop :=
  ∀ (s : State) (o : Option PortIdx) (n : Nat) (sel : PortIdx) (opening : Answer) (as : List Answer) (taking closeCmd : Pins)
    (sent closing : Answer) (rest : List Pins),
    s.seq = .idle → s.pins.rst = false → s.pins.cmdValid = true → s.fetched = openOf o → s.linkQ = .closed →
    n = s.pins.portCount.toNat % 2 ^ s.cfg.portW → (o = none ∧ n = 1 ∧ sel = 0) ∨ (o = some sel ∧ sel.toNat < n) →
    opening.Is Pins.OpenWait (Pins.OpenAnswer true) → AllAccept as → as.length = 8 →
    taking.rst = false → taking.respReady = true →
    closeCmd.rst = false → closeCmd.cmdValid = true → closeCmd.cmd.op = 0b010 →
    sent.Is Pins.TxWait Pins.TxAccept → closing.Is Pins.CloseWait Pins.CloseDone →
    s.later = opening.edges ++ answerEdges as ++ [taking, closeCmd] ++ sent.edges ++ closing.edges ++ rest →
    ∃ t, Host.Core.run Sys2Proof.core 3 s = .next t ∧ t.linkQ = .closed ∧ t.seq = .resp ∧
      t.trace = s.trace ++ (.openReq sel :: bytesOf (List.replicate 8 0xFF)) ++ [.byte 0xFF, .closeReq] ∧
      t.delivered = s.delivered ++ [{ status := .ok, count := 8, flag := false, frame := 0 }] ∧
      t.resp = { status := .ok, count := 1, flag := false, frame := 0 }

/-! ## Configuration and codes -/

/-- R7, R9, R25, R26: elaboration gives a core exactly for the legal parameter sets, with the parameters as given; the defaults
are legal; and no step changes the parameters. That the reset state of the model is the one in the default configuration is
notes/assumptions/7.md (DESIGN CHOICE). -/
def Obligations.CoreExistsExactlyForLegalParameters : Prop :=
  (∀ (p : Params), (∃ c, p.elaborate = .ok c) ↔
    (12 ≤ p.addrW ∧ p.addrW ≤ 64) ∧ (p.winBottom < p.winTop ∧ p.winTop ≤ 2 ^ p.addrW) ∧ p.wordLen = 5 ∧
      (3 ≤ p.wlenW ∧ p.wlenW ≤ 16) ∧ (1 ≤ p.portW ∧ p.portW ≤ 16)) ∧
  (∀ (p : Params) (c : Config), p.elaborate = .ok c → c.toParams = p) ∧
  ({ addrW := 32, winBottom := 0, winTop := 4096, wordLen := 5, wlenW := 8, portW := 8 } : Params).elaborate = .ok State.reset.cfg ∧
  (∀ (s t : State), step s = .next t → t.cfg = s.cfg)

/-- R170, 93 I13: the nine status codes, each with its number; a code is read back as its status, and a reader refuses exactly
9 to 15. -/
def Obligations.StatusCodesAreReadBack : Prop :=
  (Status.ok.code = 0 ∧ Status.noPortsPresent.code = 1 ∧ Status.invalidPortSelectionAmbiguous.code = 2 ∧
    Status.invalidPortSelectionRange.code = 3 ∧ Status.cannotOpenPort.code = 4 ∧ Status.encodingOverflow.code = 5 ∧
    Status.linkWriteFailed.code = 6 ∧ Status.badLinkState.code = 7 ∧ Status.illegalCommand.code = 8) ∧
  (∀ (e : Status), Status.ofCode e.code = some e) ∧ (∀ (c : BitVec 4), Status.ofCode c = none ↔ 9 ≤ c.toNat)

/-- R35, R36, R38, R40, R42: in every state, what every output but the link constants shows of the registers. The byte that
`tx_data` shows is said where `tx_buf` has a byte at `tx_idx`, as in every state that is reached (notes/assumptions/9.md). -/
def Obligations.OutputsShowTheRegisters : Prop :=
  ∀ (s : State),
    (s.outputs.cmdReady = true ↔ s.seq = .idle ∧ s.pins.rst = false) ∧
    (s.outputs.respValid = true ↔ s.seq = .resp) ∧
    s.outputs.respStatus = s.resp.status.code ∧ s.outputs.respCount = s.resp.count ∧ s.outputs.respFlag = s.resp.flag ∧
    s.outputs.respFrame = s.resp.frame ∧
    s.outputs.linkOpen = (if s.linkQ = .opened then 1 else 0) ∧
    (s.outputs.phyOpenReq = true ↔ s.seq = .phyOpen) ∧
    s.outputs.phyOpenIdx = (if s.seq = .phyOpen then s.selQ else 0) ∧
    (s.outputs.phyCloseReq = true ↔ s.seq = .phyClose) ∧
    (s.outputs.txValid = true ↔ s.seq = .tx ∧ s.txIdx.toNat < s.txLen.toNat) ∧
    (s.outputs.txValid = false → s.outputs.txData = 0) ∧
    (∀ (b : Byte), s.outputs.txValid = true → s.txBuf[s.txIdx.toNat]? = some b → s.outputs.txData = b)

/-- R21, R28: the numbers of the link states and of the sequencer states; no sequencer state has one of the numbers 5 to 7. -/
def Obligations.LinkAndSequencerCodes : Prop :=
  (LinkState.closed.bit = 0 ∧ LinkState.opened.bit = 1) ∧
  (Seq.idle.code = 0 ∧ Seq.phyOpen.code = 1 ∧ Seq.tx.code = 2 ∧ Seq.phyClose.code = 3 ∧ Seq.resp.code = 4) ∧
  (∀ (q : Seq), q.code.toNat ≤ 4)
end

