-- ==== Sys2Proof/Laws/Fields.lean ====
section
/-! SUPPORT. The bit fields: the word on its bus (R35), the low wires of a field, and the packing of a command word (R80). -/

namespace Sys2Proof

/-! ## The word on its bus -/

@[simp] theorem wordOfBus_busOfWord (w : Word) : wordOfBus (busOfWord w) = w := by
  apply Vector.ext
  intro i hi
  simp only [wordOfBus, busOfWord, Vector.getElem_ofFn]
  apply BitVec.eq_of_getLsbD_eq
  intro j hj
  have h : i = 0 ∨ i = 1 ∨ i = 2 ∨ i = 3 ∨ i = 4 := by omega
  rcases h with rfl | rfl | rfl | rfl | rfl <;>
    simp only [BitVec.getLsbD_extractLsb', BitVec.getLsbD_append, hj, decide_true, Bool.true_and]
  · rw [if_pos (by omega)]; congr 1; omega
  · rw [if_neg (by omega), if_pos (by omega)]; congr 1; omega
  · rw [if_neg (by omega), if_neg (by omega), if_pos (by omega)]; congr 1; omega
  · rw [if_neg (by omega), if_neg (by omega), if_neg (by omega), if_pos (by omega)]; congr 1; omega
  · rw [if_neg (by omega), if_neg (by omega), if_neg (by omega), if_neg (by omega)]; congr 1; omega

@[simp] theorem busOfWord_wordOfBus (b : BitVec 40) : busOfWord (wordOfBus b) = b := by
  apply BitVec.eq_of_getLsbD_eq
  intro j hj
  simp only [wordOfBus, busOfWord, Vector.getElem_ofFn, BitVec.getLsbD_extractLsb', BitVec.getLsbD_append]
  split_ifs <;> (rw [decide_eq_true (by omega), Bool.true_and]; congr 1; omega)

/-! ## The low wires of a field -/

theorem lowBits_toNat (n : Nat) {w : Nat} (v : BitVec w) : (lowBits n v).toNat = v.toNat % 2 ^ n := by
  simp only [lowBits, BitVec.toNat_setWidth]
  exact Nat.mod_eq_of_lt (lt_of_le_of_lt (Nat.mod_le _ _) v.isLt)

theorem lowBits_lt (n : Nat) {w : Nat} (v : BitVec w) : (lowBits n v).toNat < 2 ^ n := by
  rw [lowBits_toNat]; exact Nat.mod_lt _ (by positivity)

theorem lowBits_eq_of_lt (n : Nat) {w : Nat} (v : BitVec w) (h : v.toNat < 2 ^ n) : lowBits n v = v := by
  apply BitVec.eq_of_toNat_eq; rw [lowBits_toNat, Nat.mod_eq_of_lt h]

@[simp] theorem lowBits_lowBits (n : Nat) {w : Nat} (v : BitVec w) : lowBits n (lowBits n v) = lowBits n v :=
  lowBits_eq_of_lt n _ (lowBits_lt n v)

/-! ## Fields that fit their wires -/

/-- The fields of `c` fit the widths of `cfg`. -/
structure Cmd.Fits (cfg : Config) (c : Cmd) : Prop where
  idx : c.idx.toNat < 2 ^ cfg.portW
  wlen : c.wlen.toNat < 2 ^ cfg.wlenW
  addr : c.addr.toNat < 2 ^ cfg.addrW

theorem Cmd.onWires_fits (cfg : Config) (c : Cmd) : (c.onWires cfg).Fits cfg :=
  ⟨lowBits_lt _ _, lowBits_lt _ _, lowBits_lt _ _⟩

theorem Cmd.onWires_eq_of_fits {cfg : Config} {c : Cmd} (h : c.Fits cfg) : c.onWires cfg = c := by
  simp [Cmd.onWires, lowBits_eq_of_lt _ _ h.idx, lowBits_eq_of_lt _ _ h.wlen, lowBits_eq_of_lt _ _ h.addr]

theorem Config.wordLen_eq (cfg : Config) : cfg.wordLen = 5 := cfg.legal.2.2.1

theorem Config.five_lt (cfg : Config) : 5 < 2 ^ cfg.wlenW :=
  lt_of_lt_of_le (by decide : 5 < 2 ^ 3) (Nat.pow_le_pow_right (by decide) cfg.legal.2.2.2.1.1)

theorem Config.top_le (cfg : Config) : cfg.winTop ≤ 2 ^ cfg.addrW := cfg.legal.2.1.2

theorem Config.four_k_le (cfg : Config) : 4096 ≤ 2 ^ cfg.addrW :=
  le_trans (by decide : 4096 ≤ 2 ^ 12) (Nat.pow_le_pow_right (by decide) cfg.legal.1.1)

theorem fieldsOf_fits (cfg : Config) (w : Nat) : (fieldsOf cfg w).Fits cfg := by
  refine ⟨?_, ?_, ?_⟩ <;>
    exact lt_of_le_of_lt (by rw [fieldsOf, BitVec.toNat_ofNat]; exact Nat.mod_le _ _) (Nat.mod_lt _ (by positivity))

/-! ## The op map, one op at a time (R82) -/

theorem decodeCmd_open {c : Cmd} (h : c.op = 0b001) :
    decodeCmd c = if c.idxGiven then .openIdx c.idx else .openNone := by simp [decodeCmd, h]

theorem decodeCmd_close {c : Cmd} (h : c.op = 0b010) : decodeCmd c = .close := by simp [decodeCmd, h]

theorem decodeCmd_write {c : Cmd} (h : c.op = 0b011) : decodeCmd c = .write c.addr c.wlen (wordOfBus c.word) := by
  simp [decodeCmd, h]

theorem decodeCmd_check {c : Cmd} (h : c.op = 0b100) : decodeCmd c = .check c.addr c.wlen := by simp [decodeCmd, h]

theorem decodeCmd_encode {c : Cmd} (h : c.op = 0b101) : decodeCmd c = .encode c.addr (wordOfBus c.word) := by
  simp [decodeCmd, h]

theorem decodeCmd_reserved000 {c : Cmd} (h : c.op = 0b000) : decodeCmd c = .reserved000 := by simp [decodeCmd, h]

theorem decodeCmd_reserved110 {c : Cmd} (h : c.op = 0b110) : decodeCmd c = .reserved110 := by simp [decodeCmd, h]

theorem decodeCmd_reserved111 {c : Cmd} (h : c.op = 0b111) : decodeCmd c = .reserved111 := by simp [decodeCmd, h]

/-- The eight values of op. -/
theorem op_cases (op : BitVec 3) :
    op = 0b000 ∨ op = 0b001 ∨ op = 0b010 ∨ op = 0b011 ∨ op = 0b100 ∨ op = 0b101 ∨ op = 0b110 ∨ op = 0b111 := by
  revert op; decide

/-- A decoded command fits the configuration its fields fit. -/
theorem decodeCmd_wellFormed {cfg : Config} {c : Cmd} (h : c.Fits cfg) : (decodeCmd c).wellFormed cfg = true := by
  unfold decodeCmd
  split
  case h_2 => cases c.idxGiven <;> simp [Instr.wellFormed, h.idx]
  all_goals simp [Instr.wellFormed, h.addr, h.wlen]

/-- Setting a decoded command's own fields in the fields it was decoded from changes nothing. -/
@[simp] theorem encodeOver_decodeCmd (c : Cmd) : encodeOver (decodeCmd c) c = c := by
  obtain ⟨op, g, idx, wl, ad, wo⟩ := c
  rcases op_cases op with rfl | rfl | rfl | rfl | rfl | rfl | rfl | rfl <;> cases g <;> simp [decodeCmd, encodeOver]

/-- A well-formed command set over fields that fit gives fields that fit. -/
theorem encodeOver_fits {cfg : Config} {c : Cmd} {i : Instr} (h : c.Fits cfg) (hi : i.wellFormed cfg = true) :
    (encodeOver i c).Fits cfg := by
  obtain ⟨h1, h2, h3⟩ := h
  cases i <;> simp_all [encodeOver, Instr.wellFormed] <;> constructor <;> simp_all

/-- The lowest field of a packed number, and what stands above it. -/
theorem low_field (n a b : Nat) (h : a < 2 ^ n) : (a + 2 ^ n * b) % 2 ^ n = a ∧ (a + 2 ^ n * b) / 2 ^ n = b := by
  constructor
  · rw [Nat.add_mul_mod_self_left, Nat.mod_eq_of_lt h]
  · rw [Nat.add_mul_div_left _ _ (by positivity), Nat.div_eq_of_lt h, Nat.zero_add]

/-- Unpacking reads back every field that fits (R80). -/
theorem fieldsOf_packCmd {cfg : Config} {c : Cmd} (h : c.Fits cfg) : fieldsOf cfg (packCmd cfg c) = c := by
  obtain ⟨hi, hl, ha⟩ := h
  obtain ⟨hA, -, -, hN, hP⟩ := cfg.legal
  have hop := c.op.isLt
  have hg : c.idxGiven.toNat < 2 ^ 1 := by cases c.idxGiven <;> decide
  obtain ⟨l5, r5⟩ := low_field _ _ c.word.toNat ha
  obtain ⟨l4, r4⟩ := low_field _ _ (c.addr.toNat + 2 ^ cfg.addrW * c.word.toNat) hl
  obtain ⟨l3, r3⟩ := low_field _ _ (c.wlen.toNat + 2 ^ cfg.wlenW * (c.addr.toNat + 2 ^ cfg.addrW * c.word.toNat)) hi
  obtain ⟨l2, r2⟩ := low_field _ _ (c.idx.toNat + 2 ^ cfg.portW *
    (c.wlen.toNat + 2 ^ cfg.wlenW * (c.addr.toNat + 2 ^ cfg.addrW * c.word.toNat))) hg
  obtain ⟨l1, r1⟩ := low_field _ _ (c.idxGiven.toNat + 2 ^ 1 * (c.idx.toNat + 2 ^ cfg.portW *
    (c.wlen.toNat + 2 ^ cfg.wlenW * (c.addr.toNat + 2 ^ cfg.addrW * c.word.toNat)))) hop
  have hw : packCmd cfg c = c.op.toNat + 2 ^ 3 * (c.idxGiven.toNat + 2 ^ 1 * (c.idx.toNat + 2 ^ cfg.portW *
    (c.wlen.toNat + 2 ^ cfg.wlenW * (c.addr.toNat + 2 ^ cfg.addrW * c.word.toNat)))) := rfl
  have d4 : packCmd cfg c / 2 ^ 4 = c.idx.toNat + 2 ^ cfg.portW *
      (c.wlen.toNat + 2 ^ cfg.wlenW * (c.addr.toNat + 2 ^ cfg.addrW * c.word.toNat)) := by
    rw [hw, show 2 ^ 4 = 2 ^ 3 * 2 ^ 1 from rfl, ← Nat.div_div_eq_div_mul, r1, r2]
  have d5 : packCmd cfg c / 2 ^ (4 + cfg.portW) =
      c.wlen.toNat + 2 ^ cfg.wlenW * (c.addr.toNat + 2 ^ cfg.addrW * c.word.toNat) := by
    rw [Nat.pow_add, ← Nat.div_div_eq_div_mul, d4, r3]
  have d6 : packCmd cfg c / 2 ^ (4 + cfg.portW + cfg.wlenW) = c.addr.toNat + 2 ^ cfg.addrW * c.word.toNat := by
    rw [Nat.pow_add, ← Nat.div_div_eq_div_mul, d5, r4]
  have d7 : packCmd cfg c / 2 ^ (4 + cfg.portW + cfg.wlenW + cfg.addrW) = c.word.toNat := by
    rw [Nat.pow_add, ← Nat.div_div_eq_div_mul, d6, r5]
  have e1 : BitVec.ofNat 3 (packCmd cfg c) = c.op := by
    apply BitVec.eq_of_toNat_eq; rw [BitVec.toNat_ofNat, hw, l1]
  have e2 : (packCmd cfg c).testBit 3 = c.idxGiven := by
    rw [Nat.testBit_eq_decide_div_mod_eq, hw, r1]
    have : ∀ x, (c.idxGiven.toNat + 2 ^ 1 * x) % 2 = c.idxGiven.toNat := by
      intro x; cases c.idxGiven <;> simp
    rw [this]; cases c.idxGiven <;> rfl
  cases c with
  | mk op idxGiven idx wlen addr word =>
    simp only [fieldsOf, d4, d5, d6, d7, l3, l4, l5, e1, e2, BitVec.ofNat_toNat, BitVec.setWidth_eq]

end Sys2Proof
end

