-- ==== Sys2Proof/Laws/State.lean ====
section
/-! SUPPORT. One lemma for each field of State under each named update, so that no proof unfolds a record update; and the state
values the tests and proofs start from. -/

namespace Sys2Proof.Machine

/-! The latches take the fields (R27). -/

@[simp] theorem State.latch_cfg (c : Cmd) (s : State) : (s.latch c).cfg = s.cfg := rfl
@[simp] theorem State.latch_linkQ (c : Cmd) (s : State) : (s.latch c).linkQ = s.linkQ := rfl
@[simp] theorem State.latch_seq (c : Cmd) (s : State) : (s.latch c).seq = s.seq := rfl
@[simp] theorem State.latch_opQ (c : Cmd) (s : State) : (s.latch c).opQ = c.op := rfl
@[simp] theorem State.latch_idxGivenQ (c : Cmd) (s : State) : (s.latch c).idxGivenQ = c.idxGiven := rfl
@[simp] theorem State.latch_idxQ (c : Cmd) (s : State) : (s.latch c).idxQ = c.idx := rfl
@[simp] theorem State.latch_addrQ (c : Cmd) (s : State) : (s.latch c).addrQ = c.addr := rfl
@[simp] theorem State.latch_wordQ (c : Cmd) (s : State) : (s.latch c).wordQ = wordOfBus c.word := rfl
@[simp] theorem State.latch_wlenQ (c : Cmd) (s : State) : (s.latch c).wlenQ = c.wlen := rfl
@[simp] theorem State.latch_selQ (c : Cmd) (s : State) : (s.latch c).selQ = s.selQ := rfl
@[simp] theorem State.latch_afterTxQ (c : Cmd) (s : State) : (s.latch c).afterTxQ = s.afterTxQ := rfl
@[simp] theorem State.latch_txBuf (c : Cmd) (s : State) : (s.latch c).txBuf = s.txBuf := rfl
@[simp] theorem State.latch_txLen (c : Cmd) (s : State) : (s.latch c).txLen = s.txLen := rfl
@[simp] theorem State.latch_txIdx (c : Cmd) (s : State) : (s.latch c).txIdx = s.txIdx := rfl
@[simp] theorem State.latch_txFail (c : Cmd) (s : State) : (s.latch c).txFail = s.txFail := rfl
@[simp] theorem State.latch_linkNext (c : Cmd) (s : State) : (s.latch c).linkNext = s.linkQ := rfl
@[simp] theorem State.latch_resp (c : Cmd) (s : State) : (s.latch c).resp = s.resp := rfl
@[simp] theorem State.latch_pins (c : Cmd) (s : State) : (s.latch c).pins = s.pins := rfl
@[simp] theorem State.latch_later (c : Cmd) (s : State) : (s.latch c).later = s.later := rfl
@[simp] theorem State.latch_trace (c : Cmd) (s : State) : (s.latch c).trace = s.trace := rfl
@[simp] theorem State.latch_delivered (c : Cmd) (s : State) : (s.latch c).delivered = s.delivered := rfl

/-! The coming edges. -/

@[simp] theorem State.atEdges_cfg (p : Pins) (l : List Pins) (s : State) : (s.atEdges p l).cfg = s.cfg := rfl
@[simp] theorem State.atEdges_linkQ (p : Pins) (l : List Pins) (s : State) : (s.atEdges p l).linkQ = s.linkQ := rfl
@[simp] theorem State.atEdges_seq (p : Pins) (l : List Pins) (s : State) : (s.atEdges p l).seq = s.seq := rfl
@[simp] theorem State.atEdges_opQ (p : Pins) (l : List Pins) (s : State) : (s.atEdges p l).opQ = s.opQ := rfl
@[simp] theorem State.atEdges_idxGivenQ (p : Pins) (l : List Pins) (s : State) : (s.atEdges p l).idxGivenQ = s.idxGivenQ := rfl
@[simp] theorem State.atEdges_idxQ (p : Pins) (l : List Pins) (s : State) : (s.atEdges p l).idxQ = s.idxQ := rfl
@[simp] theorem State.atEdges_addrQ (p : Pins) (l : List Pins) (s : State) : (s.atEdges p l).addrQ = s.addrQ := rfl
@[simp] theorem State.atEdges_wordQ (p : Pins) (l : List Pins) (s : State) : (s.atEdges p l).wordQ = s.wordQ := rfl
@[simp] theorem State.atEdges_wlenQ (p : Pins) (l : List Pins) (s : State) : (s.atEdges p l).wlenQ = s.wlenQ := rfl
@[simp] theorem State.atEdges_selQ (p : Pins) (l : List Pins) (s : State) : (s.atEdges p l).selQ = s.selQ := rfl
@[simp] theorem State.atEdges_afterTxQ (p : Pins) (l : List Pins) (s : State) : (s.atEdges p l).afterTxQ = s.afterTxQ := rfl
@[simp] theorem State.atEdges_txBuf (p : Pins) (l : List Pins) (s : State) : (s.atEdges p l).txBuf = s.txBuf := rfl
@[simp] theorem State.atEdges_txLen (p : Pins) (l : List Pins) (s : State) : (s.atEdges p l).txLen = s.txLen := rfl
@[simp] theorem State.atEdges_txIdx (p : Pins) (l : List Pins) (s : State) : (s.atEdges p l).txIdx = s.txIdx := rfl
@[simp] theorem State.atEdges_txFail (p : Pins) (l : List Pins) (s : State) : (s.atEdges p l).txFail = s.txFail := rfl
@[simp] theorem State.atEdges_linkNext (p : Pins) (l : List Pins) (s : State) : (s.atEdges p l).linkNext = s.linkNext := rfl
@[simp] theorem State.atEdges_resp (p : Pins) (l : List Pins) (s : State) : (s.atEdges p l).resp = s.resp := rfl
@[simp] theorem State.atEdges_pins (p : Pins) (l : List Pins) (s : State) : (s.atEdges p l).pins = p := rfl
@[simp] theorem State.atEdges_later (p : Pins) (l : List Pins) (s : State) : (s.atEdges p l).later = l := rfl
@[simp] theorem State.atEdges_trace (p : Pins) (l : List Pins) (s : State) : (s.atEdges p l).trace = s.trace := rfl
@[simp] theorem State.atEdges_delivered (p : Pins) (l : List Pins) (s : State) : (s.atEdges p l).delivered = s.delivered := rfl

/-! An edge passes. -/

@[simp] theorem State.advance_cfg (s : State) : (s.advance).cfg = s.cfg := rfl
@[simp] theorem State.advance_linkQ (s : State) : (s.advance).linkQ = s.linkQ := rfl
@[simp] theorem State.advance_seq (s : State) : (s.advance).seq = s.seq := rfl
@[simp] theorem State.advance_opQ (s : State) : (s.advance).opQ = s.opQ := rfl
@[simp] theorem State.advance_idxGivenQ (s : State) : (s.advance).idxGivenQ = s.idxGivenQ := rfl
@[simp] theorem State.advance_idxQ (s : State) : (s.advance).idxQ = s.idxQ := rfl
@[simp] theorem State.advance_addrQ (s : State) : (s.advance).addrQ = s.addrQ := rfl
@[simp] theorem State.advance_wordQ (s : State) : (s.advance).wordQ = s.wordQ := rfl
@[simp] theorem State.advance_wlenQ (s : State) : (s.advance).wlenQ = s.wlenQ := rfl
@[simp] theorem State.advance_selQ (s : State) : (s.advance).selQ = s.selQ := rfl
@[simp] theorem State.advance_afterTxQ (s : State) : (s.advance).afterTxQ = s.afterTxQ := rfl
@[simp] theorem State.advance_txBuf (s : State) : (s.advance).txBuf = s.txBuf := rfl
@[simp] theorem State.advance_txLen (s : State) : (s.advance).txLen = s.txLen := rfl
@[simp] theorem State.advance_txIdx (s : State) : (s.advance).txIdx = s.txIdx := rfl
@[simp] theorem State.advance_txFail (s : State) : (s.advance).txFail = s.txFail := rfl
@[simp] theorem State.advance_linkNext (s : State) : (s.advance).linkNext = s.linkNext := rfl
@[simp] theorem State.advance_resp (s : State) : (s.advance).resp = s.resp := rfl
@[simp] theorem State.advance_pins (s : State) : (s.advance).pins = s.later.headD Pins.quiet := rfl
@[simp] theorem State.advance_later (s : State) : (s.advance).later = s.later.tail := rfl
@[simp] theorem State.advance_trace (s : State) : (s.advance).trace = s.trace := rfl
@[simp] theorem State.advance_delivered (s : State) : (s.advance).delivered = s.delivered := rfl

/-! Acceptance (R200). -/

@[simp] theorem State.accept_cfg (i : Instr) (s : State) : (s.accept i).cfg = s.cfg := rfl
@[simp] theorem State.accept_linkQ (i : Instr) (s : State) : (s.accept i).linkQ = s.linkQ := rfl
@[simp] theorem State.accept_seq (i : Instr) (s : State) : (s.accept i).seq = s.seq := rfl
@[simp] theorem State.accept_opQ (i : Instr) (s : State) : (s.accept i).opQ = (encodeOver i s.presented).op := rfl
@[simp] theorem State.accept_idxGivenQ (i : Instr) (s : State) : (s.accept i).idxGivenQ = (encodeOver i s.presented).idxGiven := rfl
@[simp] theorem State.accept_idxQ (i : Instr) (s : State) : (s.accept i).idxQ = (encodeOver i s.presented).idx := rfl
@[simp] theorem State.accept_addrQ (i : Instr) (s : State) : (s.accept i).addrQ = (encodeOver i s.presented).addr := rfl
@[simp] theorem State.accept_wordQ (i : Instr) (s : State) : (s.accept i).wordQ = wordOfBus (encodeOver i s.presented).word := rfl
@[simp] theorem State.accept_wlenQ (i : Instr) (s : State) : (s.accept i).wlenQ = (encodeOver i s.presented).wlen := rfl
@[simp] theorem State.accept_selQ (i : Instr) (s : State) : (s.accept i).selQ = s.selQ := rfl
@[simp] theorem State.accept_afterTxQ (i : Instr) (s : State) : (s.accept i).afterTxQ = s.afterTxQ := rfl
@[simp] theorem State.accept_txBuf (i : Instr) (s : State) : (s.accept i).txBuf = s.txBuf := rfl
@[simp] theorem State.accept_txLen (i : Instr) (s : State) : (s.accept i).txLen = s.txLen := rfl
@[simp] theorem State.accept_txIdx (i : Instr) (s : State) : (s.accept i).txIdx = s.txIdx := rfl
@[simp] theorem State.accept_txFail (i : Instr) (s : State) : (s.accept i).txFail = s.txFail := rfl
@[simp] theorem State.accept_linkNext (i : Instr) (s : State) : (s.accept i).linkNext = s.linkQ := rfl
@[simp] theorem State.accept_resp (i : Instr) (s : State) : (s.accept i).resp = s.resp := rfl
@[simp] theorem State.accept_pins (i : Instr) (s : State) : (s.accept i).pins = s.later.headD Pins.quiet := rfl
@[simp] theorem State.accept_later (i : Instr) (s : State) : (s.accept i).later = s.later.tail := rfl
@[simp] theorem State.accept_trace (i : Instr) (s : State) : (s.accept i).trace = s.trace := rfl
@[simp] theorem State.accept_delivered (i : Instr) (s : State) : (s.accept i).delivered = s.delivered := rfl

/-! `link_next` is set (R200, R203). -/

@[simp] theorem State.setLinkNext_cfg (l : LinkState) (s : State) : (s.setLinkNext l).cfg = s.cfg := rfl
@[simp] theorem State.setLinkNext_linkQ (l : LinkState) (s : State) : (s.setLinkNext l).linkQ = s.linkQ := rfl
@[simp] theorem State.setLinkNext_seq (l : LinkState) (s : State) : (s.setLinkNext l).seq = s.seq := rfl
@[simp] theorem State.setLinkNext_opQ (l : LinkState) (s : State) : (s.setLinkNext l).opQ = s.opQ := rfl
@[simp] theorem State.setLinkNext_idxGivenQ (l : LinkState) (s : State) : (s.setLinkNext l).idxGivenQ = s.idxGivenQ := rfl
@[simp] theorem State.setLinkNext_idxQ (l : LinkState) (s : State) : (s.setLinkNext l).idxQ = s.idxQ := rfl
@[simp] theorem State.setLinkNext_addrQ (l : LinkState) (s : State) : (s.setLinkNext l).addrQ = s.addrQ := rfl
@[simp] theorem State.setLinkNext_wordQ (l : LinkState) (s : State) : (s.setLinkNext l).wordQ = s.wordQ := rfl
@[simp] theorem State.setLinkNext_wlenQ (l : LinkState) (s : State) : (s.setLinkNext l).wlenQ = s.wlenQ := rfl
@[simp] theorem State.setLinkNext_selQ (l : LinkState) (s : State) : (s.setLinkNext l).selQ = s.selQ := rfl
@[simp] theorem State.setLinkNext_afterTxQ (l : LinkState) (s : State) : (s.setLinkNext l).afterTxQ = s.afterTxQ := rfl
@[simp] theorem State.setLinkNext_txBuf (l : LinkState) (s : State) : (s.setLinkNext l).txBuf = s.txBuf := rfl
@[simp] theorem State.setLinkNext_txLen (l : LinkState) (s : State) : (s.setLinkNext l).txLen = s.txLen := rfl
@[simp] theorem State.setLinkNext_txIdx (l : LinkState) (s : State) : (s.setLinkNext l).txIdx = s.txIdx := rfl
@[simp] theorem State.setLinkNext_txFail (l : LinkState) (s : State) : (s.setLinkNext l).txFail = s.txFail := rfl
@[simp] theorem State.setLinkNext_linkNext (l : LinkState) (s : State) : (s.setLinkNext l).linkNext = l := rfl
@[simp] theorem State.setLinkNext_resp (l : LinkState) (s : State) : (s.setLinkNext l).resp = s.resp := rfl
@[simp] theorem State.setLinkNext_pins (l : LinkState) (s : State) : (s.setLinkNext l).pins = s.pins := rfl
@[simp] theorem State.setLinkNext_later (l : LinkState) (s : State) : (s.setLinkNext l).later = s.later := rfl
@[simp] theorem State.setLinkNext_trace (l : LinkState) (s : State) : (s.setLinkNext l).trace = s.trace := rfl
@[simp] theorem State.setLinkNext_delivered (l : LinkState) (s : State) : (s.setLinkNext l).delivered = s.delivered := rfl

/-! Entering RESP (R201). -/

@[simp] theorem State.enterResp_cfg (r : Response) (s : State) : (s.enterResp r).cfg = s.cfg := rfl
@[simp] theorem State.enterResp_linkQ (r : Response) (s : State) : (s.enterResp r).linkQ = s.linkNext := rfl
@[simp] theorem State.enterResp_seq (r : Response) (s : State) : (s.enterResp r).seq = .resp := rfl
@[simp] theorem State.enterResp_opQ (r : Response) (s : State) : (s.enterResp r).opQ = s.opQ := rfl
@[simp] theorem State.enterResp_idxGivenQ (r : Response) (s : State) : (s.enterResp r).idxGivenQ = s.idxGivenQ := rfl
@[simp] theorem State.enterResp_idxQ (r : Response) (s : State) : (s.enterResp r).idxQ = s.idxQ := rfl
@[simp] theorem State.enterResp_addrQ (r : Response) (s : State) : (s.enterResp r).addrQ = s.addrQ := rfl
@[simp] theorem State.enterResp_wordQ (r : Response) (s : State) : (s.enterResp r).wordQ = s.wordQ := rfl
@[simp] theorem State.enterResp_wlenQ (r : Response) (s : State) : (s.enterResp r).wlenQ = s.wlenQ := rfl
@[simp] theorem State.enterResp_selQ (r : Response) (s : State) : (s.enterResp r).selQ = s.selQ := rfl
@[simp] theorem State.enterResp_afterTxQ (r : Response) (s : State) : (s.enterResp r).afterTxQ = s.afterTxQ := rfl
@[simp] theorem State.enterResp_txBuf (r : Response) (s : State) : (s.enterResp r).txBuf = s.txBuf := rfl
@[simp] theorem State.enterResp_txLen (r : Response) (s : State) : (s.enterResp r).txLen = s.txLen := rfl
@[simp] theorem State.enterResp_txIdx (r : Response) (s : State) : (s.enterResp r).txIdx = s.txIdx := rfl
@[simp] theorem State.enterResp_txFail (r : Response) (s : State) : (s.enterResp r).txFail = s.txFail := rfl
@[simp] theorem State.enterResp_linkNext (r : Response) (s : State) : (s.enterResp r).linkNext = s.linkNext := rfl
@[simp] theorem State.enterResp_resp (r : Response) (s : State) : (s.enterResp r).resp = r := rfl
@[simp] theorem State.enterResp_pins (r : Response) (s : State) : (s.enterResp r).pins = s.pins := rfl
@[simp] theorem State.enterResp_later (r : Response) (s : State) : (s.enterResp r).later = s.later := rfl
@[simp] theorem State.enterResp_trace (r : Response) (s : State) : (s.enterResp r).trace = s.trace := rfl
@[simp] theorem State.enterResp_delivered (r : Response) (s : State) : (s.enterResp r).delivered = s.delivered := rfl

/-! Leaving RESP (R202). -/

@[simp] theorem State.takeResponse_cfg (s : State) : (s.takeResponse).cfg = s.cfg := rfl
@[simp] theorem State.takeResponse_linkQ (s : State) : (s.takeResponse).linkQ = s.linkQ := rfl
@[simp] theorem State.takeResponse_seq (s : State) : (s.takeResponse).seq = .idle := rfl
@[simp] theorem State.takeResponse_opQ (s : State) : (s.takeResponse).opQ = s.opQ := rfl
@[simp] theorem State.takeResponse_idxGivenQ (s : State) : (s.takeResponse).idxGivenQ = s.idxGivenQ := rfl
@[simp] theorem State.takeResponse_idxQ (s : State) : (s.takeResponse).idxQ = s.idxQ := rfl
@[simp] theorem State.takeResponse_addrQ (s : State) : (s.takeResponse).addrQ = s.addrQ := rfl
@[simp] theorem State.takeResponse_wordQ (s : State) : (s.takeResponse).wordQ = s.wordQ := rfl
@[simp] theorem State.takeResponse_wlenQ (s : State) : (s.takeResponse).wlenQ = s.wlenQ := rfl
@[simp] theorem State.takeResponse_selQ (s : State) : (s.takeResponse).selQ = s.selQ := rfl
@[simp] theorem State.takeResponse_afterTxQ (s : State) : (s.takeResponse).afterTxQ = s.afterTxQ := rfl
@[simp] theorem State.takeResponse_txBuf (s : State) : (s.takeResponse).txBuf = s.txBuf := rfl
@[simp] theorem State.takeResponse_txLen (s : State) : (s.takeResponse).txLen = s.txLen := rfl
@[simp] theorem State.takeResponse_txIdx (s : State) : (s.takeResponse).txIdx = s.txIdx := rfl
@[simp] theorem State.takeResponse_txFail (s : State) : (s.takeResponse).txFail = s.txFail := rfl
@[simp] theorem State.takeResponse_linkNext (s : State) : (s.takeResponse).linkNext = s.linkNext := rfl
@[simp] theorem State.takeResponse_resp (s : State) : (s.takeResponse).resp = s.resp := rfl
@[simp] theorem State.takeResponse_pins (s : State) : (s.takeResponse).pins = s.pins := rfl
@[simp] theorem State.takeResponse_later (s : State) : (s.takeResponse).later = s.later := rfl
@[simp] theorem State.takeResponse_trace (s : State) : (s.takeResponse).trace = s.trace := rfl
@[simp] theorem State.takeResponse_delivered (s : State) : (s.takeResponse).delivered = s.delivered ++ [s.resp] := rfl

/-! A send begins (R30). -/

@[simp] theorem State.loadTx_cfg (bs : List Byte) (b : Bool) (s : State) : (s.loadTx bs b).cfg = s.cfg := rfl
@[simp] theorem State.loadTx_linkQ (bs : List Byte) (b : Bool) (s : State) : (s.loadTx bs b).linkQ = s.linkQ := rfl
@[simp] theorem State.loadTx_seq (bs : List Byte) (b : Bool) (s : State) : (s.loadTx bs b).seq = .tx := rfl
@[simp] theorem State.loadTx_opQ (bs : List Byte) (b : Bool) (s : State) : (s.loadTx bs b).opQ = s.opQ := rfl
@[simp] theorem State.loadTx_idxGivenQ (bs : List Byte) (b : Bool) (s : State) : (s.loadTx bs b).idxGivenQ = s.idxGivenQ := rfl
@[simp] theorem State.loadTx_idxQ (bs : List Byte) (b : Bool) (s : State) : (s.loadTx bs b).idxQ = s.idxQ := rfl
@[simp] theorem State.loadTx_addrQ (bs : List Byte) (b : Bool) (s : State) : (s.loadTx bs b).addrQ = s.addrQ := rfl
@[simp] theorem State.loadTx_wordQ (bs : List Byte) (b : Bool) (s : State) : (s.loadTx bs b).wordQ = s.wordQ := rfl
@[simp] theorem State.loadTx_wlenQ (bs : List Byte) (b : Bool) (s : State) : (s.loadTx bs b).wlenQ = s.wlenQ := rfl
@[simp] theorem State.loadTx_selQ (bs : List Byte) (b : Bool) (s : State) : (s.loadTx bs b).selQ = s.selQ := rfl
@[simp] theorem State.loadTx_afterTxQ (bs : List Byte) (b : Bool) (s : State) : (s.loadTx bs b).afterTxQ = b := rfl
@[simp] theorem State.loadTx_txBuf (bs : List Byte) (b : Bool) (s : State) : (s.loadTx bs b).txBuf = loadBytes bs s.txBuf := rfl
@[simp] theorem State.loadTx_txLen (bs : List Byte) (b : Bool) (s : State) : (s.loadTx bs b).txLen = BitVec.ofNat 4 bs.length := rfl
@[simp] theorem State.loadTx_txIdx (bs : List Byte) (b : Bool) (s : State) : (s.loadTx bs b).txIdx = 0 := rfl
@[simp] theorem State.loadTx_txFail (bs : List Byte) (b : Bool) (s : State) : (s.loadTx bs b).txFail = false := rfl
@[simp] theorem State.loadTx_linkNext (bs : List Byte) (b : Bool) (s : State) : (s.loadTx bs b).linkNext = s.linkNext := rfl
@[simp] theorem State.loadTx_resp (bs : List Byte) (b : Bool) (s : State) : (s.loadTx bs b).resp = s.resp := rfl
@[simp] theorem State.loadTx_pins (bs : List Byte) (b : Bool) (s : State) : (s.loadTx bs b).pins = s.pins := rfl
@[simp] theorem State.loadTx_later (bs : List Byte) (b : Bool) (s : State) : (s.loadTx bs b).later = s.later := rfl
@[simp] theorem State.loadTx_trace (bs : List Byte) (b : Bool) (s : State) : (s.loadTx bs b).trace = s.trace := rfl
@[simp] theorem State.loadTx_delivered (bs : List Byte) (b : Bool) (s : State) : (s.loadTx bs b).delivered = s.delivered := rfl

/-! A byte is accepted (R204). -/

@[simp] theorem State.byteAccepted_cfg (b : Byte) (s : State) : (s.byteAccepted b).cfg = s.cfg := rfl
@[simp] theorem State.byteAccepted_linkQ (b : Byte) (s : State) : (s.byteAccepted b).linkQ = s.linkQ := rfl
@[simp] theorem State.byteAccepted_seq (b : Byte) (s : State) : (s.byteAccepted b).seq = s.seq := rfl
@[simp] theorem State.byteAccepted_opQ (b : Byte) (s : State) : (s.byteAccepted b).opQ = s.opQ := rfl
@[simp] theorem State.byteAccepted_idxGivenQ (b : Byte) (s : State) : (s.byteAccepted b).idxGivenQ = s.idxGivenQ := rfl
@[simp] theorem State.byteAccepted_idxQ (b : Byte) (s : State) : (s.byteAccepted b).idxQ = s.idxQ := rfl
@[simp] theorem State.byteAccepted_addrQ (b : Byte) (s : State) : (s.byteAccepted b).addrQ = s.addrQ := rfl
@[simp] theorem State.byteAccepted_wordQ (b : Byte) (s : State) : (s.byteAccepted b).wordQ = s.wordQ := rfl
@[simp] theorem State.byteAccepted_wlenQ (b : Byte) (s : State) : (s.byteAccepted b).wlenQ = s.wlenQ := rfl
@[simp] theorem State.byteAccepted_selQ (b : Byte) (s : State) : (s.byteAccepted b).selQ = s.selQ := rfl
@[simp] theorem State.byteAccepted_afterTxQ (b : Byte) (s : State) : (s.byteAccepted b).afterTxQ = s.afterTxQ := rfl
@[simp] theorem State.byteAccepted_txBuf (b : Byte) (s : State) : (s.byteAccepted b).txBuf = s.txBuf := rfl
@[simp] theorem State.byteAccepted_txLen (b : Byte) (s : State) : (s.byteAccepted b).txLen = s.txLen := rfl
@[simp] theorem State.byteAccepted_txIdx (b : Byte) (s : State) : (s.byteAccepted b).txIdx = s.txIdx + 1 := rfl
@[simp] theorem State.byteAccepted_txFail (b : Byte) (s : State) : (s.byteAccepted b).txFail = s.txFail := rfl
@[simp] theorem State.byteAccepted_linkNext (b : Byte) (s : State) : (s.byteAccepted b).linkNext = s.linkNext := rfl
@[simp] theorem State.byteAccepted_resp (b : Byte) (s : State) : (s.byteAccepted b).resp = s.resp := rfl
@[simp] theorem State.byteAccepted_pins (b : Byte) (s : State) : (s.byteAccepted b).pins = s.pins := rfl
@[simp] theorem State.byteAccepted_later (b : Byte) (s : State) : (s.byteAccepted b).later = s.later := rfl
@[simp] theorem State.byteAccepted_trace (b : Byte) (s : State) : (s.byteAccepted b).trace = s.trace ++ [.byte b] := rfl
@[simp] theorem State.byteAccepted_delivered (b : Byte) (s : State) : (s.byteAccepted b).delivered = s.delivered := rfl

/-! A byte is refused (R204). -/

@[simp] theorem State.byteRefused_cfg (s : State) : (s.byteRefused).cfg = s.cfg := rfl
@[simp] theorem State.byteRefused_linkQ (s : State) : (s.byteRefused).linkQ = s.linkQ := rfl
@[simp] theorem State.byteRefused_seq (s : State) : (s.byteRefused).seq = s.seq := rfl
@[simp] theorem State.byteRefused_opQ (s : State) : (s.byteRefused).opQ = s.opQ := rfl
@[simp] theorem State.byteRefused_idxGivenQ (s : State) : (s.byteRefused).idxGivenQ = s.idxGivenQ := rfl
@[simp] theorem State.byteRefused_idxQ (s : State) : (s.byteRefused).idxQ = s.idxQ := rfl
@[simp] theorem State.byteRefused_addrQ (s : State) : (s.byteRefused).addrQ = s.addrQ := rfl
@[simp] theorem State.byteRefused_wordQ (s : State) : (s.byteRefused).wordQ = s.wordQ := rfl
@[simp] theorem State.byteRefused_wlenQ (s : State) : (s.byteRefused).wlenQ = s.wlenQ := rfl
@[simp] theorem State.byteRefused_selQ (s : State) : (s.byteRefused).selQ = s.selQ := rfl
@[simp] theorem State.byteRefused_afterTxQ (s : State) : (s.byteRefused).afterTxQ = s.afterTxQ := rfl
@[simp] theorem State.byteRefused_txBuf (s : State) : (s.byteRefused).txBuf = s.txBuf := rfl
@[simp] theorem State.byteRefused_txLen (s : State) : (s.byteRefused).txLen = s.txLen := rfl
@[simp] theorem State.byteRefused_txIdx (s : State) : (s.byteRefused).txIdx = s.txIdx := rfl
@[simp] theorem State.byteRefused_txFail (s : State) : (s.byteRefused).txFail = true := rfl
@[simp] theorem State.byteRefused_linkNext (s : State) : (s.byteRefused).linkNext = s.linkNext := rfl
@[simp] theorem State.byteRefused_resp (s : State) : (s.byteRefused).resp = s.resp := rfl
@[simp] theorem State.byteRefused_pins (s : State) : (s.byteRefused).pins = s.pins := rfl
@[simp] theorem State.byteRefused_later (s : State) : (s.byteRefused).later = s.later := rfl
@[simp] theorem State.byteRefused_trace (s : State) : (s.byteRefused).trace = s.trace := rfl
@[simp] theorem State.byteRefused_delivered (s : State) : (s.byteRefused).delivered = s.delivered := rfl

/-! The PHY is asked to open (R200). -/

@[simp] theorem State.requestOpen_cfg (sel : PortIdx) (s : State) : (s.requestOpen sel).cfg = s.cfg := rfl
@[simp] theorem State.requestOpen_linkQ (sel : PortIdx) (s : State) : (s.requestOpen sel).linkQ = s.linkQ := rfl
@[simp] theorem State.requestOpen_seq (sel : PortIdx) (s : State) : (s.requestOpen sel).seq = .phyOpen := rfl
@[simp] theorem State.requestOpen_opQ (sel : PortIdx) (s : State) : (s.requestOpen sel).opQ = s.opQ := rfl
@[simp] theorem State.requestOpen_idxGivenQ (sel : PortIdx) (s : State) : (s.requestOpen sel).idxGivenQ = s.idxGivenQ := rfl
@[simp] theorem State.requestOpen_idxQ (sel : PortIdx) (s : State) : (s.requestOpen sel).idxQ = s.idxQ := rfl
@[simp] theorem State.requestOpen_addrQ (sel : PortIdx) (s : State) : (s.requestOpen sel).addrQ = s.addrQ := rfl
@[simp] theorem State.requestOpen_wordQ (sel : PortIdx) (s : State) : (s.requestOpen sel).wordQ = s.wordQ := rfl
@[simp] theorem State.requestOpen_wlenQ (sel : PortIdx) (s : State) : (s.requestOpen sel).wlenQ = s.wlenQ := rfl
@[simp] theorem State.requestOpen_selQ (sel : PortIdx) (s : State) : (s.requestOpen sel).selQ = sel := rfl
@[simp] theorem State.requestOpen_afterTxQ (sel : PortIdx) (s : State) : (s.requestOpen sel).afterTxQ = s.afterTxQ := rfl
@[simp] theorem State.requestOpen_txBuf (sel : PortIdx) (s : State) : (s.requestOpen sel).txBuf = s.txBuf := rfl
@[simp] theorem State.requestOpen_txLen (sel : PortIdx) (s : State) : (s.requestOpen sel).txLen = s.txLen := rfl
@[simp] theorem State.requestOpen_txIdx (sel : PortIdx) (s : State) : (s.requestOpen sel).txIdx = s.txIdx := rfl
@[simp] theorem State.requestOpen_txFail (sel : PortIdx) (s : State) : (s.requestOpen sel).txFail = s.txFail := rfl
@[simp] theorem State.requestOpen_linkNext (sel : PortIdx) (s : State) : (s.requestOpen sel).linkNext = s.linkNext := rfl
@[simp] theorem State.requestOpen_resp (sel : PortIdx) (s : State) : (s.requestOpen sel).resp = s.resp := rfl
@[simp] theorem State.requestOpen_pins (sel : PortIdx) (s : State) : (s.requestOpen sel).pins = s.pins := rfl
@[simp] theorem State.requestOpen_later (sel : PortIdx) (s : State) : (s.requestOpen sel).later = s.later := rfl
@[simp] theorem State.requestOpen_trace (sel : PortIdx) (s : State) : (s.requestOpen sel).trace = s.trace ++ [.openReq sel] := rfl
@[simp] theorem State.requestOpen_delivered (sel : PortIdx) (s : State) : (s.requestOpen sel).delivered = s.delivered := rfl

/-! The PHY is asked to close (R204). -/

@[simp] theorem State.requestClose_cfg (s : State) : (s.requestClose).cfg = s.cfg := rfl
@[simp] theorem State.requestClose_linkQ (s : State) : (s.requestClose).linkQ = s.linkQ := rfl
@[simp] theorem State.requestClose_seq (s : State) : (s.requestClose).seq = .phyClose := rfl
@[simp] theorem State.requestClose_opQ (s : State) : (s.requestClose).opQ = s.opQ := rfl
@[simp] theorem State.requestClose_idxGivenQ (s : State) : (s.requestClose).idxGivenQ = s.idxGivenQ := rfl
@[simp] theorem State.requestClose_idxQ (s : State) : (s.requestClose).idxQ = s.idxQ := rfl
@[simp] theorem State.requestClose_addrQ (s : State) : (s.requestClose).addrQ = s.addrQ := rfl
@[simp] theorem State.requestClose_wordQ (s : State) : (s.requestClose).wordQ = s.wordQ := rfl
@[simp] theorem State.requestClose_wlenQ (s : State) : (s.requestClose).wlenQ = s.wlenQ := rfl
@[simp] theorem State.requestClose_selQ (s : State) : (s.requestClose).selQ = s.selQ := rfl
@[simp] theorem State.requestClose_afterTxQ (s : State) : (s.requestClose).afterTxQ = s.afterTxQ := rfl
@[simp] theorem State.requestClose_txBuf (s : State) : (s.requestClose).txBuf = s.txBuf := rfl
@[simp] theorem State.requestClose_txLen (s : State) : (s.requestClose).txLen = s.txLen := rfl
@[simp] theorem State.requestClose_txIdx (s : State) : (s.requestClose).txIdx = s.txIdx := rfl
@[simp] theorem State.requestClose_txFail (s : State) : (s.requestClose).txFail = s.txFail := rfl
@[simp] theorem State.requestClose_linkNext (s : State) : (s.requestClose).linkNext = s.linkNext := rfl
@[simp] theorem State.requestClose_resp (s : State) : (s.requestClose).resp = s.resp := rfl
@[simp] theorem State.requestClose_pins (s : State) : (s.requestClose).pins = s.pins := rfl
@[simp] theorem State.requestClose_later (s : State) : (s.requestClose).later = s.later := rfl
@[simp] theorem State.requestClose_trace (s : State) : (s.requestClose).trace = s.trace ++ [.closeReq] := rfl
@[simp] theorem State.requestClose_delivered (s : State) : (s.requestClose).delivered = s.delivered := rfl

/-! A wait (R187). -/

@[simp] theorem State.await_cfg (g : Pins → Bool) (s : State) : ((s.await g).2).cfg = s.cfg := rfl
@[simp] theorem State.await_linkQ (g : Pins → Bool) (s : State) : ((s.await g).2).linkQ = s.linkQ := rfl
@[simp] theorem State.await_seq (g : Pins → Bool) (s : State) : ((s.await g).2).seq = s.seq := rfl
@[simp] theorem State.await_opQ (g : Pins → Bool) (s : State) : ((s.await g).2).opQ = s.opQ := rfl
@[simp] theorem State.await_idxGivenQ (g : Pins → Bool) (s : State) : ((s.await g).2).idxGivenQ = s.idxGivenQ := rfl
@[simp] theorem State.await_idxQ (g : Pins → Bool) (s : State) : ((s.await g).2).idxQ = s.idxQ := rfl
@[simp] theorem State.await_addrQ (g : Pins → Bool) (s : State) : ((s.await g).2).addrQ = s.addrQ := rfl
@[simp] theorem State.await_wordQ (g : Pins → Bool) (s : State) : ((s.await g).2).wordQ = s.wordQ := rfl
@[simp] theorem State.await_wlenQ (g : Pins → Bool) (s : State) : ((s.await g).2).wlenQ = s.wlenQ := rfl
@[simp] theorem State.await_selQ (g : Pins → Bool) (s : State) : ((s.await g).2).selQ = s.selQ := rfl
@[simp] theorem State.await_afterTxQ (g : Pins → Bool) (s : State) : ((s.await g).2).afterTxQ = s.afterTxQ := rfl
@[simp] theorem State.await_txBuf (g : Pins → Bool) (s : State) : ((s.await g).2).txBuf = s.txBuf := rfl
@[simp] theorem State.await_txLen (g : Pins → Bool) (s : State) : ((s.await g).2).txLen = s.txLen := rfl
@[simp] theorem State.await_txIdx (g : Pins → Bool) (s : State) : ((s.await g).2).txIdx = s.txIdx := rfl
@[simp] theorem State.await_txFail (g : Pins → Bool) (s : State) : ((s.await g).2).txFail = s.txFail := rfl
@[simp] theorem State.await_linkNext (g : Pins → Bool) (s : State) : ((s.await g).2).linkNext = s.linkNext := rfl
@[simp] theorem State.await_resp (g : Pins → Bool) (s : State) : ((s.await g).2).resp = s.resp := rfl
@[simp] theorem State.await_pins (g : Pins → Bool) (s : State) : ((s.await g).2).pins = (awaitIn g s.pins s.later).2.1 := rfl
@[simp] theorem State.await_later (g : Pins → Bool) (s : State) : ((s.await g).2).later = (awaitIn g s.pins s.later).2.2 := rfl
@[simp] theorem State.await_trace (g : Pins → Bool) (s : State) : ((s.await g).2).trace = s.trace := rfl
@[simp] theorem State.await_delivered (g : Pins → Bool) (s : State) : ((s.await g).2).delivered = s.delivered := rfl

/-! A reset edge (R43, R210). -/

@[simp] theorem State.resetEdge_cfg (s : State) : s.resetEdge.cfg = s.cfg := rfl
@[simp] theorem State.resetEdge_linkQ (s : State) : s.resetEdge.linkQ = State.reset.linkQ := rfl
@[simp] theorem State.resetEdge_seq (s : State) : s.resetEdge.seq = State.reset.seq := rfl
@[simp] theorem State.resetEdge_opQ (s : State) : s.resetEdge.opQ = State.reset.opQ := rfl
@[simp] theorem State.resetEdge_idxGivenQ (s : State) : s.resetEdge.idxGivenQ = State.reset.idxGivenQ := rfl
@[simp] theorem State.resetEdge_idxQ (s : State) : s.resetEdge.idxQ = State.reset.idxQ := rfl
@[simp] theorem State.resetEdge_addrQ (s : State) : s.resetEdge.addrQ = State.reset.addrQ := rfl
@[simp] theorem State.resetEdge_wordQ (s : State) : s.resetEdge.wordQ = State.reset.wordQ := rfl
@[simp] theorem State.resetEdge_wlenQ (s : State) : s.resetEdge.wlenQ = State.reset.wlenQ := rfl
@[simp] theorem State.resetEdge_selQ (s : State) : s.resetEdge.selQ = State.reset.selQ := rfl
@[simp] theorem State.resetEdge_afterTxQ (s : State) : s.resetEdge.afterTxQ = State.reset.afterTxQ := rfl
@[simp] theorem State.resetEdge_txBuf (s : State) : s.resetEdge.txBuf = State.reset.txBuf := rfl
@[simp] theorem State.resetEdge_txLen (s : State) : s.resetEdge.txLen = State.reset.txLen := rfl
@[simp] theorem State.resetEdge_txIdx (s : State) : s.resetEdge.txIdx = State.reset.txIdx := rfl
@[simp] theorem State.resetEdge_txFail (s : State) : s.resetEdge.txFail = State.reset.txFail := rfl
@[simp] theorem State.resetEdge_linkNext (s : State) : s.resetEdge.linkNext = State.reset.linkNext := rfl
@[simp] theorem State.resetEdge_resp (s : State) : s.resetEdge.resp = State.reset.resp := rfl
@[simp] theorem State.resetEdge_pins (s : State) : s.resetEdge.pins = s.later.headD Pins.quiet := rfl
@[simp] theorem State.resetEdge_later (s : State) : s.resetEdge.later = s.later.tail := rfl
@[simp] theorem State.resetEdge_trace (s : State) : s.resetEdge.trace = s.trace := rfl
@[simp] theorem State.resetEdge_delivered (s : State) : s.resetEdge.delivered = s.delivered := rfl

/-! A command word placed at the coming edge. -/

@[simp] theorem State.withFetchWord_cfg (s : State) (nbits w : Nat) : (s.withFetchWord nbits w).cfg = s.cfg := rfl
@[simp] theorem State.withFetchWord_linkQ (s : State) (nbits w : Nat) : (s.withFetchWord nbits w).linkQ = s.linkQ := rfl
@[simp] theorem State.withFetchWord_seq (s : State) (nbits w : Nat) : (s.withFetchWord nbits w).seq = .idle := rfl
@[simp] theorem State.withFetchWord_opQ (s : State) (nbits w : Nat) : (s.withFetchWord nbits w).opQ = s.opQ := rfl
@[simp] theorem State.withFetchWord_idxGivenQ (s : State) (nbits w : Nat) : (s.withFetchWord nbits w).idxGivenQ = s.idxGivenQ := rfl
@[simp] theorem State.withFetchWord_idxQ (s : State) (nbits w : Nat) : (s.withFetchWord nbits w).idxQ = s.idxQ := rfl
@[simp] theorem State.withFetchWord_addrQ (s : State) (nbits w : Nat) : (s.withFetchWord nbits w).addrQ = s.addrQ := rfl
@[simp] theorem State.withFetchWord_wordQ (s : State) (nbits w : Nat) : (s.withFetchWord nbits w).wordQ = s.wordQ := rfl
@[simp] theorem State.withFetchWord_wlenQ (s : State) (nbits w : Nat) : (s.withFetchWord nbits w).wlenQ = s.wlenQ := rfl
@[simp] theorem State.withFetchWord_selQ (s : State) (nbits w : Nat) : (s.withFetchWord nbits w).selQ = s.selQ := rfl
@[simp] theorem State.withFetchWord_afterTxQ (s : State) (nbits w : Nat) : (s.withFetchWord nbits w).afterTxQ = s.afterTxQ := rfl
@[simp] theorem State.withFetchWord_txBuf (s : State) (nbits w : Nat) : (s.withFetchWord nbits w).txBuf = s.txBuf := rfl
@[simp] theorem State.withFetchWord_txLen (s : State) (nbits w : Nat) : (s.withFetchWord nbits w).txLen = s.txLen := rfl
@[simp] theorem State.withFetchWord_txIdx (s : State) (nbits w : Nat) : (s.withFetchWord nbits w).txIdx = s.txIdx := rfl
@[simp] theorem State.withFetchWord_txFail (s : State) (nbits w : Nat) : (s.withFetchWord nbits w).txFail = s.txFail := rfl
@[simp] theorem State.withFetchWord_linkNext (s : State) (nbits w : Nat) : (s.withFetchWord nbits w).linkNext = s.linkNext := rfl
@[simp] theorem State.withFetchWord_resp (s : State) (nbits w : Nat) : (s.withFetchWord nbits w).resp = s.resp := rfl
@[simp] theorem State.withFetchWord_later (s : State) (nbits w : Nat) : (s.withFetchWord nbits w).later = s.later := rfl
@[simp] theorem State.withFetchWord_trace (s : State) (nbits w : Nat) : (s.withFetchWord nbits w).trace = s.trace := rfl
@[simp] theorem State.withFetchWord_delivered (s : State) (nbits w : Nat) : (s.withFetchWord nbits w).delivered = s.delivered := rfl

end Sys2Proof.Machine
end

