-- ==== Sys2Proof/Laws/Ops.lean ====
section
/-! SUPPORT. What each shared operation can do, said once: presenting and accepting, waiting for an agent, sending bytes. -/

namespace Sys2Proof.Machine

/-! ## Acceptance -/

@[simp] theorem ifPresentable_of {i : Instr} {s : State} (r : Result) (h : i.wellFormed s.cfg = true) :
    ifPresentable i s r = r := by simp [ifPresentable, h]

/-- What a presented command answers is what its meaning answers, and the command was presentable. -/
theorem ifPresentable_next {i : Instr} {s t : State} {r : Result} :
    ifPresentable i s r = .next t ↔ i.wellFormed s.cfg = true ∧ r = .next t := by
  unfold ifPresentable; split_ifs with h <;> simp [h]

/-- Acceptance leaves the latches holding the presented fields and nothing else changed. -/
theorem accept_eq (i : Instr) (s : State) :
    s.accept i =
      let c := encodeOver i s.presented
      s.acceptedAs c.op c.idxGiven c.idx c.wlen c.addr (wordOfBus c.word) := rfl

/-! ## The edges a state sees -/

/-- The coming edges of `s` are those of `l`. -/
structure State.Sees (s : State) (l : List Pins) : Prop where
  pins : s.pins = l.headD Pins.quiet
  later : s.later = l.tail

theorem accept_sees (i : Instr) (s : State) : (s.accept i).Sees s.later := ⟨rfl, rfl⟩

/-! ## Waiting (R187) -/

@[simp] theorem atEdges_atEdges (p q : Pins) (l m : List Pins) (s : State) : (s.atEdges p l).atEdges q m = s.atEdges q m := rfl

/-- Edges without an answer pass, and the first answer ends the wait. -/
theorem awaitIn_answer {g : Pins → Bool} {a : Pins} {rest : List Pins} (ha : a.rst = false ∧ g a = true) (ws : List Pins) :
    ∀ (p : Pins) (l : List Pins), (∀ w ∈ ws, w.rst = false ∧ g w = false) →
      p :: l = ws ++ a :: rest → awaitIn g p l = (some a, rest.headD Pins.quiet, rest.tail) := by
  induction ws with
  | nil =>
    intro p l _ h
    obtain ⟨rfl, rfl⟩ := List.cons.inj h
    cases l <;> simp [awaitIn, ha]
  | cons w ws ih =>
    intro p l hw h
    obtain ⟨rfl, rfl⟩ := List.cons.inj h
    have hp := hw p (by simp)
    have hws : ∀ w ∈ ws, w.rst = false ∧ g w = false := fun x hx => hw x (by simp [hx])
    change awaitIn g p (ws ++ a :: rest) = _
    cases hl : ws ++ a :: rest with
    | nil => simp at hl
    | cons q m =>
      simp only [awaitIn, hp.1, hp.2, Bool.false_eq_true, if_false]
      exact ih q m hws hl.symm

/-- The same for a state that sees an answer. -/
theorem await_answer {g : Pins → Bool} {a : Answer} {rest : List Pins} {s : State}
    (ha : (∀ w ∈ a.waits, w.rst = false ∧ g w = false) ∧ a.last.rst = false ∧ g a.last = true)
    (hs : s.Sees (a.edges ++ rest)) :
    s.await g = (some a.last, s.atEdges (rest.headD Pins.quiet) rest.tail) := by
  have h : awaitIn g s.pins s.later = (some a.last, rest.headD Pins.quiet, rest.tail) := by
    refine awaitIn_answer ha.2 a.waits _ _ ha.1 ?_
    rw [hs.pins, hs.later, Answer.edges]
    cases h : a.waits <;> simp
  simp [State.await, h]

/-- Every way a wait can end: with an answer at a non-reset edge, or with a reset edge on the pins, or with no edge left. -/
theorem awaitIn_cases {g : Pins → Bool} (l : List Pins) :
    ∀ (p : Pins),
      (∃ a q m, awaitIn g p l = (some a, q, m) ∧ a.rst = false ∧ g a = true) ∨
      (∃ q m, awaitIn g p l = (none, q, m) ∧ (q.rst = true ∨ (q = Pins.quiet ∧ m = []))) := by
  induction l with
  | nil =>
    intro p
    unfold awaitIn
    split_ifs with h1 h2
    · exact .inr ⟨p, [], rfl, .inl h1⟩
    · exact .inl ⟨p, _, _, rfl, by simpa using h1, h2⟩
    · exact .inr ⟨_, _, rfl, .inr ⟨rfl, rfl⟩⟩
  | cons q l ih =>
    intro p
    unfold awaitIn
    split_ifs with h1 h2
    · exact .inr ⟨p, _, rfl, .inl h1⟩
    · exact .inl ⟨p, _, _, rfl, by simpa using h1, h2⟩
    · exact ih q

/-- A wait for an answer: what it can end with, and the state it leaves. -/
theorem await_cases (g : Pins → Bool) (s : State) :
    (∃ a q m, s.await g = (some a, s.atEdges q m) ∧ a.rst = false ∧ g a = true) ∨
    (∃ q m, s.await g = (none, s.atEdges q m) ∧ (q.rst = true ∨ (q = Pins.quiet ∧ m = []))) := by
  rcases awaitIn_cases (g := g) s.later s.pins with ⟨a, q, m, h, h'⟩ | ⟨q, m, h, h'⟩
  · exact .inl ⟨a, q, m, by simp [State.await, h], h'⟩
  · exact .inr ⟨q, m, by simp [State.await, h], h'⟩

/-! ## Sending (R12, R204) -/

/-- The state after the PHY has accepted the bytes `bs` in order. -/
def State.sent (bs : List Byte) (s : State) : State :=
  { s with txIdx := s.txIdx + BitVec.ofNat 4 bs.length, trace := s.trace ++ bytesOf bs }

@[simp] theorem State.sent_nil (s : State) : s.sent [] = s := by cases s; simp [State.sent, bytesOf]

theorem State.sent_byteAccepted (b : Byte) (bs : List Byte) (s : State) : (s.byteAccepted b).sent bs = s.sent (b :: bs) := by
  cases s
  simp only [State.sent, State.byteAccepted, bytesOf, List.map_cons, List.append_assoc, List.cons_append, List.nil_append,
    List.length_cons, BitVec.add_assoc]
  rw [Nat.add_comm bs.length 1, BitVec.ofNat_add]
  rfl

theorem State.atEdges_byteAccepted (b : Byte) (p : Pins) (l : List Pins) (s : State) :
    (s.atEdges p l).byteAccepted b = (s.byteAccepted b).atEdges p l := rfl

theorem State.atEdges_byteRefused (p : Pins) (l : List Pins) (s : State) :
    (s.atEdges p l).byteRefused = s.byteRefused.atEdges p l := rfl

theorem State.atEdges_sent (bs : List Byte) (p : Pins) (l : List Pins) (s : State) :
    (s.atEdges p l).sent bs = (s.sent bs).atEdges p l := rfl

theorem State.sent_byteRefused (bs : List Byte) (s : State) : (s.sent bs).byteRefused = s.byteRefused.sent bs := rfl

theorem sendBytes_cons (b : Byte) (bs : List Byte) (s : State) :
    sendBytes (b :: bs) s =
      match s.await Pins.byteAnswered with
      | (none, t) => (.pending, t)
      | (some p, t) => if p.txErr then (.failed, t.byteRefused) else sendBytes bs (t.byteAccepted b) := rfl

theorem sendBytes_cons_accept {b : Byte} {bs : List Byte} {s : State} {a : Answer} {rest : List Pins}
    (ha : a.Is Pins.TxWait Pins.TxAccept) (hs : s.Sees (a.edges ++ rest)) :
    sendBytes (b :: bs) s = sendBytes bs ((s.byteAccepted b).atEdges (rest.headD Pins.quiet) rest.tail) := by
  rw [sendBytes_cons, await_answer (g := Pins.byteAnswered) (a := a) (rest := rest) ?_ hs]
  · simp [ha.2.2.1, State.atEdges_byteAccepted]
  · refine ⟨fun w hw => ?_, ha.2.1, ?_⟩
    · obtain ⟨h1, h2, h3⟩ := ha.1 w hw; simp [Pins.byteAnswered, h1, h2, h3]
    · simp [Pins.byteAnswered, ha.2.2.2]

theorem sendBytes_cons_refuse {b : Byte} {bs : List Byte} {s : State} {a : Answer} {rest : List Pins}
    (ha : a.Is Pins.TxWait Pins.TxRefuse) (hs : s.Sees (a.edges ++ rest)) :
    sendBytes (b :: bs) s = (.failed, s.byteRefused.atEdges (rest.headD Pins.quiet) rest.tail) := by
  rw [sendBytes_cons, await_answer (g := Pins.byteAnswered) (a := a) (rest := rest) ?_ hs]
  · simp [ha.2.2, State.atEdges_byteRefused]
  · refine ⟨fun w hw => ?_, ha.2.1, ?_⟩
    · obtain ⟨h1, h2, h3⟩ := ha.1 w hw; simp [Pins.byteAnswered, h1, h2, h3]
    · simp [Pins.byteAnswered, ha.2.2]

/-- A PHY that accepts every byte takes them all, in order. -/
theorem sendBytes_accepted (bs : List Byte) :
    ∀ (as : List Answer) (rest : List Pins) (s : State), as.length = bs.length → AllAccept as →
      s.Sees (answerEdges as ++ rest) →
      sendBytes bs s = (.ok, (s.sent bs).atEdges (rest.headD Pins.quiet) rest.tail) := by
  induction bs with
  | nil =>
    intro as rest s hl _ hs
    obtain rfl : as = [] := List.length_eq_zero_iff.mp hl
    obtain ⟨h1, h2⟩ := hs
    simp only [answerEdges, List.flatMap_nil, List.nil_append] at h1 h2
    rw [State.sent_nil, sendBytes, ← h1, ← h2]
    rfl
  | cons b bs ih =>
    intro as rest s hl ha hs
    cases as with
    | nil => simp at hl
    | cons a as =>
      rw [sendBytes_cons_accept (ha a (by simp)) (rest := answerEdges as ++ rest) (by simpa [answerEdges] using hs),
        ih as rest _ (by simpa using hl) (fun x hx => ha x (by simp [hx])) ⟨rfl, rfl⟩, State.atEdges_sent,
        State.sent_byteAccepted]
      rfl

/-- A PHY that refuses a byte has taken exactly the bytes before it. -/
theorem sendBytes_refused (bs : List Byte) :
    ∀ (as : List Answer) (r : Answer) (rest : List Pins) (s : State), as.length < bs.length → AllAccept as →
      r.Is Pins.TxWait Pins.TxRefuse → s.Sees (answerEdges as ++ r.edges ++ rest) →
      sendBytes bs s =
        (.failed, ((s.sent (bs.take as.length)).byteRefused).atEdges (rest.headD Pins.quiet) rest.tail) := by
  induction bs with
  | nil => intro as r rest s hl; simp at hl
  | cons b bs ih =>
    intro as r rest s hl ha hr hs
    cases as with
    | nil =>
      rw [sendBytes_cons_refuse hr (rest := rest) (by simpa [answerEdges] using hs)]
      simp
    | cons a as =>
      rw [sendBytes_cons_accept (ha a (by simp)) (rest := answerEdges as ++ r.edges ++ rest) (by simpa [answerEdges] using hs),
        ih as r rest _ (by simpa using hl) (fun x hx => ha x (by simp [hx])) hr ⟨rfl, rfl⟩, State.atEdges_sent,
        State.sent_byteAccepted, List.length_cons, List.take_succ_cons]
      rfl

/-- Everything a send can do: a leading part of the bytes is handed over in order and counted; it is all of them exactly where the
send ends ok; the PHY has refused the next one exactly where it fails; where it is pending, a reset edge stands on the pins or no
edge is left. -/
theorem sendBytes_cases (bs : List Byte) :
    ∀ (s : State), ∃ (k : Nat) (p : Pins) (l : List Pins),
      (k = bs.length ∧ sendBytes bs s = (.ok, (s.sent bs).atEdges p l)) ∨
      (k < bs.length ∧ sendBytes bs s = (.failed, ((s.sent (bs.take k)).byteRefused).atEdges p l)) ∨
      (k < bs.length ∧ sendBytes bs s = (.pending, (s.sent (bs.take k)).atEdges p l) ∧
        (p.rst = true ∨ (p = Pins.quiet ∧ l = []))) := by
  induction bs with
  | nil => intro s; exact ⟨0, s.pins, s.later, .inl ⟨rfl, by rw [State.sent_nil]; rfl⟩⟩
  | cons b bs ih =>
    intro s
    rcases await_cases Pins.byteAnswered s with ⟨a, q, m, h, -, -⟩ | ⟨q, m, h, hq⟩
    · cases he : a.txErr
      · have hc : sendBytes (b :: bs) s = sendBytes bs ((s.byteAccepted b).atEdges q m) := by
          simp [sendBytes_cons, h, he, State.atEdges_byteAccepted]
        obtain ⟨k, p, l, h1 | h1 | h1⟩ := ih ((s.byteAccepted b).atEdges q m)
        · refine ⟨k + 1, p, l, .inl ⟨by simpa using h1.1, ?_⟩⟩
          rw [hc, h1.2, State.atEdges_sent, State.sent_byteAccepted, atEdges_atEdges]
        · refine ⟨k + 1, p, l, .inr (.inl ⟨by simpa using h1.1, ?_⟩)⟩
          rw [hc, h1.2, State.atEdges_sent, State.sent_byteAccepted, List.take_succ_cons]
          rfl
        · refine ⟨k + 1, p, l, .inr (.inr ⟨by simpa using h1.1, ?_, h1.2.2⟩)⟩
          rw [hc, h1.2.1, State.atEdges_sent, State.sent_byteAccepted, List.take_succ_cons]
          rfl
      · exact ⟨0, q, m, .inr (.inl ⟨by simp, by simp [sendBytes_cons, h, he, State.atEdges_byteRefused]⟩)⟩
    · exact ⟨0, q, m, .inr (.inr ⟨by simp, by simp [sendBytes_cons, h], hq⟩)⟩

/-! ## The bytes among what was handed over -/

@[simp] theorem wireOf_bytesOf (bs : List Byte) : wireOf (bytesOf bs) = bs := by
  induction bs with
  | nil => rfl
  | cons b bs ih => simp only [wireOf, bytesOf, List.map_cons, List.filterMap_cons] at ih ⊢; rw [ih]

@[simp] theorem wireOf_append (a b : List PhyEvent) : wireOf (a ++ b) = wireOf a ++ wireOf b := by simp [wireOf]

@[simp] theorem wireOf_openReq (i : PortIdx) (es : List PhyEvent) : wireOf (.openReq i :: es) = wireOf es := rfl

@[simp] theorem wireOf_closeReq (es : List PhyEvent) : wireOf (.closeReq :: es) = wireOf es := rfl

/-! ## The transmit buffer -/

theorem loadBytes_frame (f buf : Frame) : loadBytes f.toList buf = f := by
  apply Vector.ext
  intro i hi
  simp [loadBytes]

theorem loadBytes_handshake (buf : Frame) :
    loadBytes (List.replicate 8 0xFF) buf = Vector.ofFn fun k => if k.val < 8 then 0xFF else buf[k] := by
  apply Vector.ext
  intro i hi
  simp only [loadBytes, Vector.getElem_ofFn, List.getElem?_replicate]
  split_ifs <;> rfl

theorem loadBytes_shutdown (buf : Frame) : loadBytes [0xFF] buf = buf.set 0 0xFF := by
  apply Vector.ext
  intro i hi
  cases i <;> simp [loadBytes]

end Sys2Proof.Machine
end

