-- ==== Sys2Proof/Laws/Encoder.lean ====
section
/-! SUPPORT. The frame encoder's two cases (R100, R101). -/

namespace Sys2Proof.Machine

theorem encodeFrame_overflow {addr : Addr} (word : Word) (h : 4096 ≤ addr.toNat) : encodeFrame addr word = none := by
  simp only [encodeFrame]
  rw [if_pos (by omega)]

/-- The shifted address and the merged nibble are the bits of R88. -/
theorem encodeFrame_frame {addr : Addr} (word : Word) (h : addr.toNat < 4096) :
    encodeFrame addr word = some (writeFrame addr word) := by
  have hs : BitVec.ofNat 16 (addr.toNat * 2 ^ 4) = addr.extractLsb' 0 12 ++ 0#4 := by
    apply BitVec.eq_of_toNat_eq
    simp only [BitVec.toNat_ofNat, BitVec.toNat_append, BitVec.extractLsb'_toNat, Nat.shiftRight_zero, Nat.shiftLeft_eq,
      Nat.zero_mod, Nat.or_zero]
    omega
  have e1 : (addr.extractLsb' 0 12 ++ 0#4).extractLsb' 8 8 = addr.extractLsb' 4 8 := by
    apply BitVec.eq_of_getLsbD_eq; intro j hj
    simp only [BitVec.getLsbD_extractLsb', BitVec.getLsbD_append, hj, decide_true, Bool.true_and]
    rw [if_neg (by omega), decide_eq_true (by omega), Bool.true_and]; congr 1; omega
  have e2 : (addr.extractLsb' 0 12 ++ 0#4).extractLsb' 0 8 ||| (word[0] &&& 0x0F#8) =
      addr.extractLsb' 0 4 ++ word[0].extractLsb' 0 4 := by
    apply BitVec.eq_of_getLsbD_eq; intro j hj
    have hm : (0x0F#8).getLsbD j = decide (j < 4) := by
      have : j = 0 ∨ j = 1 ∨ j = 2 ∨ j = 3 ∨ j = 4 ∨ j = 5 ∨ j = 6 ∨ j = 7 := by omega
      rcases this with rfl | rfl | rfl | rfl | rfl | rfl | rfl | rfl <;> rfl
    simp only [BitVec.getLsbD_or, BitVec.getLsbD_and, BitVec.getLsbD_extractLsb', BitVec.getLsbD_append, hj, decide_true,
      Bool.true_and, hm]
    by_cases h4 : j < 4
    · simp [h4]
    · simp only [h4, Nat.zero_add, if_false, decide_false, Bool.and_false, Bool.or_false]
      rw [decide_eq_true (by omega), decide_eq_true (by omega)]
  have hn : ¬ 2 ^ 16 ≤ addr.toNat * 2 ^ 4 := by omega
  simp only [encodeFrame, be16, hs, e1, if_neg hn]
  rw [writeFrame, ← e2]

theorem encodeFrame_eq (addr : Addr) (word : Word) :
    encodeFrame addr word = if addr.toNat < 4096 then some (writeFrame addr word) else none := by
  split_ifs with h
  · exact encodeFrame_frame word h
  · exact encodeFrame_overflow word (by omega)

/-- The guard is the conjunction of its checks (R121). -/
theorem guard_iff (cfg : Config) (addr : Addr) (wlen : WLen) (link : LinkState) :
    guard cfg addr wlen link = true ↔
      cfg.winBottom ≤ addr.toNat ∧ addr.toNat < cfg.winTop ∧ wlen.toNat = cfg.wordLen ∧ link = .opened := by
  simp [guard, and_assoc]

end Sys2Proof.Machine
end

