-- ==== Sys2Proof/Laws/Commands.lean ====
section
/-! SUPPORT. Everything each command can do, said once: the shared parts of WRITE, OPEN and CLOSE as the list of the states they
can end in, and `exec` of each instruction over them. -/

namespace Sys2Proof.Machine

/-- A response that carries its status and count only. -/
def Response.plain (e : Status) (k : BitVec 4) : Response := { status := e, count := k, flag := false, frame := 0 }

/-- Where a wait stands that no answer has ended: a reset edge is on the pins, or no edge is left. -/
abbrev Unanswered (p : Pins) (l : List Pins) : Prop := p.rst = true ∨ (p = Pins.quiet ∧ l = [])

/-! ## The transmit registers after a send -/

theorem sent_loadTx_txIdx (bs cs : List Byte) (b : Bool) (s : State) :
    ((s.loadTx bs b).sent cs).txIdx = BitVec.ofNat 4 cs.length := by simp [State.sent]

/-! ## WRITE -/

theorem sendFrame_cases (f : Frame) (s : State) : ∃ (k : Nat) (p : Pins) (l : List Pins),
    (sendFrame f s = .next ((((s.loadTx f.toList false).sent f.toList).atEdges p l).enterResp (.plain .ok 9))) ∨
    (k < 9 ∧ sendFrame f s = .next
      (((((s.loadTx f.toList false).sent (f.toList.take k)).byteRefused).atEdges p l).enterResp
        (.plain .linkWriteFailed (BitVec.ofNat 4 k)))) ∨
    (k < 9 ∧ sendFrame f s = .next (((s.loadTx f.toList false).sent (f.toList.take k)).atEdges p l) ∧ Unanswered p l) := by
  obtain ⟨k, p, l, ⟨-, h⟩ | ⟨hk, h⟩ | ⟨hk, h, hp⟩⟩ := sendBytes_cases f.toList (s.loadTx f.toList false)
  · exact ⟨k, p, l, .inl (by simp [sendFrame, h, respond, Response.plain])⟩
  · rw [Vector.length_toList] at hk
    refine ⟨k, p, l, .inr (.inl ⟨hk, ?_⟩)⟩
    have : min k 9 = k := by omega
    simp [sendFrame, h, raise, respond, Response.plain, sent_loadTx_txIdx, this]
  · rw [Vector.length_toList] at hk
    exact ⟨k, p, l, .inr (.inr ⟨hk, by simp [sendFrame, h], hp⟩)⟩

/-! ## OPEN -/

theorem sendHandshake_cases (s : State) : ∃ (k : Nat) (p : Pins) (l : List Pins),
    (sendHandshake s = .next (((((s.setLinkNext .opened).loadTx openHandshake false).sent openHandshake).atEdges
      p l).enterResp (.plain .ok 8))) ∨
    (k < 8 ∧ sendHandshake s = .next ((((((s.setLinkNext .opened).loadTx openHandshake false).sent
      (openHandshake.take k)).byteRefused).atEdges p l).enterResp (.plain .linkWriteFailed (BitVec.ofNat 4 k)))) ∨
    (k < 8 ∧ sendHandshake s = .next ((((s.setLinkNext .opened).loadTx openHandshake false).sent
      (openHandshake.take k)).atEdges p l) ∧ Unanswered p l) := by
  obtain ⟨k, p, l, ⟨-, h⟩ | ⟨hk, h⟩ | ⟨hk, h, hp⟩⟩ :=
    sendBytes_cases openHandshake ((s.setLinkNext .opened).loadTx openHandshake false)
  · exact ⟨k, p, l, .inl (by simp [sendHandshake, h, respond, Response.plain])⟩
  · have hk' : k < 8 := hk
    refine ⟨k, p, l, .inr (.inl ⟨hk', ?_⟩)⟩
    have hl : (openHandshake.take k).length = k := by rw [List.length_take]; exact Nat.min_eq_left (le_of_lt hk)
    simp [sendHandshake, h, raise, respond, Response.plain, sent_loadTx_txIdx, hl]
  · exact ⟨k, p, l, .inr (.inr ⟨hk, by simp [sendHandshake, h], hp⟩)⟩

theorem openPort_cases (sel : PortIdx) (s : State) : ∃ (p : Pins) (l : List Pins),
    (openPort sel s = .next (((s.requestOpen sel).atEdges p l).enterResp (.plain .cannotOpenPort 0))) ∨
    (openPort sel s = .next ((s.requestOpen sel).atEdges p l) ∧ Unanswered p l) ∨
    (openPort sel s = sendHandshake ((s.requestOpen sel).atEdges p l)) := by
  rcases await_cases Pins.phyOpenDone (s.requestOpen sel) with ⟨a, q, m, h, -, -⟩ | ⟨q, m, h, hq⟩
  · cases ho : a.phyOpenOk
    · exact ⟨q, m, .inl (by simp [openPort, h, ho, raise, respond, Response.plain])⟩
    · exact ⟨q, m, .inr (.inr (by simp [openPort, h, ho]))⟩
  · exact ⟨q, m, .inr (.inl ⟨by simp [openPort, h], hq⟩)⟩

/-- Both forms of OPEN are one command (R83). -/
theorem exec_open (s : State) (o : Option PortIdx) (hw : (openOf o).wellFormed s.cfg = true) :
    exec (openOf o) s = openCommand s.portCount o.isSome (o.getD 0) (s.accept (openOf o)) := by
  cases o <;> simp only [openOf] at hw ⊢ <;> simp only [exec, execOpenNone, execOpenIdx, ifPresentable_of _ hw] <;> rfl

theorem accept_open (s : State) (o : Option PortIdx) :
    s.accept (openOf o) =
      s.acceptedAs 0b001 o.isSome (o.getD s.presented.idx) s.presented.wlen s.presented.addr s.presentedWord := by
  cases o <;> rfl

/-- A valid selection (R143). -/
theorem selectPort_ok {s : State} {o : Option PortIdx} {n : Nat} {sel : PortIdx}
    (hn : n = s.pins.portCount.toNat % 2 ^ s.cfg.portW)
    (h : (o = none ∧ n = 1 ∧ sel = 0) ∨ (o = some sel ∧ sel.toNat < n)) :
    (openOf o).wellFormed s.cfg = true ∧ selectPort s.portCount o.isSome (o.getD 0) = .ok sel := by
  have hc : s.portCount.toNat = n := by rw [hn, State.portCount, lowBits_toNat]
  have hlt : n < 2 ^ s.cfg.portW := by rw [hn]; exact Nat.mod_lt _ (by positivity)
  have h0 : ¬ s.portCount = 0#16 := by intro h0; rw [h0] at hc; simp at hc; omega
  rcases h with ⟨rfl, h1, rfl⟩ | ⟨rfl, h1⟩
  · refine ⟨rfl, ?_⟩
    have : ¬ (1 < s.portCount.toNat) := by omega
    simp [selectPort, h0, this]
  · refine ⟨by simp [openOf, Instr.wellFormed]; omega, ?_⟩
    have : sel.toNat < s.portCount.toNat := by omega
    simp [selectPort, h0, this]

/-- Every failure of port selection (R143). -/
theorem selectPort_error {n idx : PortIdx} {g : Bool} {e : Status} (h : selectPort n g idx = .error e) :
    (e = .noPortsPresent ∧ n = 0) ∨ (e = .invalidPortSelectionAmbiguous ∧ g = false ∧ 1 < n.toNat) ∨
      (e = .invalidPortSelectionRange ∧ g = true ∧ n ≠ 0 ∧ n.toNat ≤ idx.toNat) := by
  unfold selectPort at h
  split_ifs at h with h0 h1 h2
  · exact .inl ⟨(Except.error.inj h).symm, h0⟩
  · exact .inr (.inl ⟨(Except.error.inj h).symm, h1⟩)
  · exact .inr (.inr ⟨(Except.error.inj h).symm, h2.1, h0, Nat.le_of_not_lt h2.2⟩)

/-- A selected port is one of the ports counted, so it fits its field (R143). -/
theorem selectPort_lt {n idx sel : PortIdx} {g : Bool} (h : selectPort n g idx = .ok sel) : sel.toNat < n.toNat := by
  unfold selectPort at h
  split_ifs at h with h0 h1 h2 h3 <;> cases h
  · have : n.toNat ≠ 0 := fun h => h0 (BitVec.eq_of_toNat_eq h)
    simp; omega
  · have hg : g = true := by simpa using h3
    exact not_not.mp fun hc => h2 ⟨hg, hc⟩

/-! ## CLOSE -/

theorem closePhy_cases (s : State) : ∃ (p : Pins) (l : List Pins),
    (closePhy s = .next ((s.requestClose.atEdges p l).enterResp
      (.plain (if s.txFail then .linkWriteFailed else .ok) s.txIdx))) ∨
    (closePhy s = .next (s.requestClose.atEdges p l) ∧ Unanswered p l) := by
  rcases await_cases Pins.phyCloseDone s.requestClose with ⟨a, q, m, h, -, -⟩ | ⟨q, m, h, hq⟩
  · refine ⟨q, m, .inl ?_⟩
    cases hf : s.txFail <;> simp [closePhy, h, hf, raise, respond, Response.plain]
  · exact ⟨q, m, .inr ⟨by simp [closePhy, h], hq⟩⟩

theorem shutDown_cases (s : State) : ∃ (p : Pins) (l : List Pins),
    (shutDown s = closePhy ((((s.setLinkNext .closed).loadTx closeHandshake true).sent [0xFF]).atEdges p l)) ∨
    (shutDown s = closePhy ((((s.setLinkNext .closed).loadTx closeHandshake true).byteRefused).atEdges p l)) ∨
    (shutDown s = .next (((s.setLinkNext .closed).loadTx closeHandshake true).atEdges p l) ∧
      Unanswered p l) := by
  obtain ⟨k, p, l, ⟨-, h⟩ | ⟨hk, h⟩ | ⟨hk, h, hp⟩⟩ :=
    sendBytes_cases closeHandshake ((s.setLinkNext .closed).loadTx closeHandshake true)
  · exact ⟨p, l, .inl (by simp only [shutDown, h]; rfl)⟩
  · obtain rfl : k = 0 := by simpa [closeHandshake] using hk
    exact ⟨p, l, .inr (.inl (by simp only [shutDown, h, List.take_zero, State.sent_nil]))⟩
  · obtain rfl : k = 0 := by simpa [closeHandshake] using hk
    exact ⟨p, l, .inr (.inr ⟨by simp only [shutDown, h, List.take_zero, State.sent_nil], hp⟩)⟩

/-! ## What `exec` answers -/

/-- A WRITE whose operands are in the window with the right length fits the configuration. -/
theorem write_wellFormed {s : State} {addr : Addr} {wlen : WLen} {word : Word} (ht : addr.toNat < s.cfg.winTop)
    (hl : wlen = 5) : (Instr.write addr wlen word).wellFormed s.cfg = true := by
  subst hl
  have := s.cfg.top_le
  have := s.cfg.five_lt
  simp [Instr.wellFormed]; omega

theorem guard_of {s : State} {addr : Addr} {wlen : WLen} (hb : s.cfg.winBottom ≤ addr.toNat)
    (ht : addr.toNat < s.cfg.winTop) (hl : wlen = 5) (ho : s.linkQ = .opened) : guard s.cfg addr wlen s.linkQ = true := by
  rw [guard_iff]; subst hl; exact ⟨hb, ht, by rw [s.cfg.wordLen_eq]; rfl, ho⟩

/-- The command ends at its acceptance edge with response `r`. -/
structure Immediate (i : Instr) (s : State) (r : Response) : Prop where
  answer : exec i s = .next ((s.accept i).enterResp r)
  allowed : responseAllowed (encodeOver i Cmd.zero).op (encodeOver i s.presented).idxGiven r
  count : r.count = 0
  checked : r.status ≠ .cannotOpenPort ∧ r.status ≠ .linkWriteFailed
  closed : i = .close → s.linkQ = .closed
  illegal : r.status = .illegalCommand ↔ isReserved i = true

/-- What `exec` of a command that can be presented is: an immediate response, a WRITE's send, an OPEN's PHY open, or a CLOSE's
shutdown. -/
inductive ExecShape (i : Instr) (s : State) : Prop where
  | immediate (r : Response) (h : Immediate i s r)
  | send (addr : Addr) (wlen : WLen) (word : Word) (hi : i = .write addr wlen word)
      (hg : guard s.cfg addr wlen s.linkQ = true) (h4 : addr.toNat < 4096)
      (answer : exec i s = sendFrame (writeFrame addr word) (s.accept i))
  | opening (o : Option PortIdx) (sel : PortIdx) (hi : i = openOf o) (hl : s.linkQ = .closed)
      (hs : selectPort s.portCount o.isSome (o.getD 0) = .ok sel) (answer : exec i s = openPort sel (s.accept i))
  | closing (hi : i = .close) (hl : s.linkQ = .opened) (answer : exec i s = shutDown (s.accept i))

theorem exec_open_shape (s : State) (o : Option PortIdx) (hw : (openOf o).wellFormed s.cfg = true) : ExecShape (openOf o) s := by
  have he := exec_open s o hw
  simp only [openCommand, State.accept_linkQ] at he
  cases h : s.linkQ with
  | opened =>
    rw [h] at he
    refine .immediate (.plain .badLinkState 0) ⟨he, ?_, rfl, by simp [Response.plain], ?_, ?_⟩ <;> cases o <;>
      simp [openOf, encodeOver, responseAllowed, Response.Plain, Response.plain, isReserved]
  | closed =>
    rw [h] at he
    cases hsel : selectPort s.portCount o.isSome (o.getD 0) with
    | ok sel => rw [hsel] at he; exact .opening o sel rfl h hsel he
    | error e =>
      rw [hsel] at he
      rcases selectPort_error hsel with ⟨rfl, -⟩ | ⟨rfl, hg, -⟩ | ⟨rfl, hg, -⟩ <;>
      · refine .immediate (.plain _ 0) ⟨he, ?_, rfl, by simp [Response.plain], ?_, ?_⟩ <;> cases o <;>
          simp_all [openOf, encodeOver, responseAllowed, Response.Plain, Response.plain, isReserved]

theorem exec_shape {i : Instr} {s : State} (hw : i.wellFormed s.cfg = true) : ExecShape i s := by
  cases i with
  | openNone => exact exec_open_shape s none hw
  | openIdx idx => exact exec_open_shape s (some idx) hw
  | close =>
    have he : exec .close s = _ := ifPresentable_of _ hw
    cases h : s.linkQ with
    | opened => rw [h] at he; exact .closing rfl h he
    | closed =>
      rw [h] at he
      exact .immediate (.plain .ok 0) ⟨he, by simp [encodeOver, responseAllowed, Response.Plain, Response.plain], rfl,
        by simp [Response.plain], fun _ => h, by simp [isReserved, Response.plain]⟩
  | write addr wlen word =>
    have he : exec (.write addr wlen word) s = _ := ifPresentable_of _ hw
    rw [encodeFrame_eq] at he
    split_ifs at he with h h4
    · exact .send addr wlen word rfl h h4 he
    all_goals
      refine .immediate (.plain _ 0) ⟨he, ?_, rfl, ?_, by simp, ?_⟩ <;>
        simp [encodeOver, responseAllowed, Response.Plain, Response.plain, isReserved]
  | check addr wlen =>
    refine .immediate _ ⟨ifPresentable_of _ hw, ?_, rfl, ?_, by simp, ?_⟩ <;>
      simp [encodeOver, responseAllowed, isReserved]
  | encode addr word =>
    have he : exec (.encode addr word) s = _ := ifPresentable_of _ hw
    cases hf : encodeFrame addr word <;> rw [hf] at he <;>
    · refine .immediate _ ⟨he, ?_, rfl, ?_, by simp, ?_⟩ <;> simp [encodeOver, responseAllowed, isReserved]
  | reserved000 =>
    refine .immediate (.plain .illegalCommand 0) ⟨rfl, ?_, rfl, ?_, by simp, ?_⟩ <;>
      simp [encodeOver, responseAllowed, isReserved, Response.plain, Response.Plain]
  | reserved110 =>
    refine .immediate (.plain .illegalCommand 0) ⟨rfl, ?_, rfl, ?_, by simp, ?_⟩ <;>
      simp [encodeOver, responseAllowed, isReserved, Response.plain, Response.Plain]
  | reserved111 =>
    refine .immediate (.plain .illegalCommand 0) ⟨rfl, ?_, rfl, ?_, by simp, ?_⟩ <;>
      simp [encodeOver, responseAllowed, isReserved, Response.plain, Response.Plain]

end Sys2Proof.Machine
end

