-- ==== Sys2Proof/Laws/Cycle.lean ====
section
/-! SUPPORT. What one clock edge is in each sequencer state, out of reset, and that edges compose. -/

namespace Sys2Proof.Machine

theorem advance_eq (s : State) : s.advance = { s with pins := s.later.headD Pins.quiet, later := s.later.tail } := rfl

theorem edge_idle {s : State} (hq : s.seq = .idle) (hr : s.pins.rst = false) :
    s.edge = if s.pins.cmdValid then s.acceptEdge.advance else s.advance := by simp [State.edge, hq, hr]

theorem edge_phyOpen {s : State} (hq : s.seq = .phyOpen) (hr : s.pins.rst = false) : s.edge = s.phyOpenEdge.advance := by
  simp [State.edge, hq, hr]

theorem edge_tx {s : State} (hq : s.seq = .tx) (hr : s.pins.rst = false) : s.edge = s.txEdge.advance := by
  simp [State.edge, hq, hr]

theorem edge_phyClose {s : State} (hq : s.seq = .phyClose) (hr : s.pins.rst = false) : s.edge = s.phyCloseEdge.advance := by
  simp [State.edge, hq, hr]

theorem edge_resp {s : State} (hq : s.seq = .resp) (hr : s.pins.rst = false) : s.edge = s.respEdge.advance := by
  simp [State.edge, hq, hr]

theorem edge_reset {s : State} (hr : s.pins.rst = true) : s.edge = s.resetEdge := by simp [State.edge, hr]

theorem edges_add (m n : Nat) (s : State) : s.edges (m + n) = (s.edges m).edges n := by
  induction m generalizing s with
  | zero => rw [Nat.zero_add]; rfl
  | succ m ih => rw [Nat.succ_add]; exact ih s.edge

theorem run_succ {n : Nat} {s t : State} (h : step s = .next t) :
    Host.Core.run Sys2Proof.core (n + 1) s = Host.Core.run Sys2Proof.core n t := by
  have h' : Sys2Proof.core.step s = .next t := h
  simp only [Host.Core.run, h']

/-- Latching what the channel presents is accepting the command it decodes to (R27, R200). -/
theorem latch_advance (s : State) : (s.latch s.presented).advance = s.accept s.fetched := by
  rw [State.accept, State.fetched, encodeOver_decodeCmd]

/-! ## The acceptance action, op by op (R200) -/

theorem acceptAction_open {n : PortIdx} {t : State} (h : t.opQ = 0b001) :
    t.acceptAction n =
      match t.linkQ with
      | .opened => t.enterResp (.plain .badLinkState 0)
      | .closed =>
        match selectPort n t.idxGivenQ t.idxQ with
        | .error e => t.enterResp (.plain e 0)
        | .ok sel => t.requestOpen sel := by simp [State.acceptAction, h, Response.plain] <;> rfl

theorem acceptAction_close {n : PortIdx} {t : State} (h : t.opQ = 0b010) :
    t.acceptAction n =
      match t.linkQ with
      | .closed => t.enterResp (.plain .ok 0)
      | .opened => (t.setLinkNext .closed).loadTx closeHandshake true := by
  simp [State.acceptAction, h, Response.plain] <;> rfl

theorem acceptAction_write {n : PortIdx} {t : State} (h : t.opQ = 0b011) :
    t.acceptAction n =
      if guard t.cfg t.addrQ t.wlenQ t.linkQ then
        if t.addrQ.toNat < 4096 then t.loadTx (writeFrame t.addrQ t.wordQ).toList false
        else t.enterResp (.plain .encodingOverflow 0)
      else t.enterResp (.plain .ok 0) := by
  simp [State.acceptAction, h, Response.plain, encodeFrame_eq]
  split_ifs <;> rfl

theorem acceptAction_check {n : PortIdx} {t : State} (h : t.opQ = 0b100) :
    t.acceptAction n =
      t.enterResp { status := .ok, count := 0, flag := guard t.cfg t.addrQ t.wlenQ t.linkQ, frame := 0 } := by
  simp [State.acceptAction, h]

theorem acceptAction_encode {n : PortIdx} {t : State} (h : t.opQ = 0b101) :
    t.acceptAction n =
      if t.addrQ.toNat < 4096 then
        t.enterResp { status := .ok, count := 0, flag := false, frame := frameBits (writeFrame t.addrQ t.wordQ) }
      else t.enterResp (.plain .encodingOverflow 0) := by
  simp [State.acceptAction, h, Response.plain, encodeFrame_eq]
  split_ifs <;> rfl

theorem acceptAction_reserved {n : PortIdx} {t : State} (h : t.opQ = 0b000 ∨ t.opQ = 0b110 ∨ t.opQ = 0b111) :
    t.acceptAction n = t.enterResp (.plain .illegalCommand 0) := by
  rcases h with h | h | h <;> simp [State.acceptAction, h, Response.plain]

/-! ## Following the edges of one command -/

/-- `n` edges lead from `s` to `t`, and at each of them but the last state the command is in progress: no idle, no response, no
reset, and the link state unchanged. -/
def State.Follows (s t : State) : Prop :=
  ∃ n, s.edges n = t ∧ ∀ m < n,
    (s.edges m).linkQ = s.linkQ ∧ (s.edges m).seq ≠ .idle ∧ (s.edges m).seq ≠ .resp ∧ (s.edges m).pins.rst = false

theorem State.Follows.refl (s : State) : s.Follows s := ⟨0, rfl, fun m hm => absurd hm (Nat.not_lt_zero m)⟩

theorem State.Follows.trans {s t u : State} (h : s.Follows t) (hl : t.linkQ = s.linkQ) (h' : t.Follows u) : s.Follows u := by
  obtain ⟨n, hn, h⟩ := h
  obtain ⟨k, hk, h'⟩ := h'
  refine ⟨n + k, by rw [edges_add, hn, hk], fun m hm => ?_⟩
  by_cases hmn : m < n
  · exact h m hmn
  · obtain ⟨j, rfl⟩ := Nat.exists_eq_add_of_le (Nat.le_of_not_lt hmn)
    rw [edges_add, hn, ← hl]
    exact h' j (by omega)

theorem State.Follows.edge {s : State} (h : s.seq ≠ .idle ∧ s.seq ≠ .resp ∧ s.pins.rst = false) : s.Follows s.edge :=
  ⟨1, rfl, fun m hm => by obtain rfl : m = 0 := by omega
                          exact ⟨rfl, h⟩⟩

/-- A wait, edge by edge: it ends before the answering edge, or at a reset edge, or where no edge is left (R187). -/
theorem await_follows (g : Pins → Bool) (l : List Pins) :
    ∀ (s : State), s.later = l → s.seq ≠ .idle → s.seq ≠ .resp →
      (∀ p m, p.rst = false → g p = false → (s.atEdges p m).edge = (s.atEdges p m).advance) →
      (∃ p m, s.await g = (some p, (s.atEdges p m).advance) ∧ p.rst = false ∧ g p = true ∧ s.Follows (s.atEdges p m)) ∨
      (∃ p m, s.await g = (none, s.atEdges p m) ∧ Unanswered p m ∧ s.Follows (s.atEdges p m)) := by
  induction l with
  | nil =>
    intro s hl h1 h2 hw
    have hs : s.atEdges s.pins [] = s := by cases s; subst hl; rfl
    by_cases hr : s.pins.rst = true
    · refine .inr ⟨s.pins, [], by simp [State.await, hl, awaitIn, hr], .inl hr, by rw [hs]; exact .refl s⟩
    · have hr' : s.pins.rst = false := by simpa using hr
      by_cases hg : g s.pins = true
      · exact .inl ⟨s.pins, [], by simp [State.await, hl, awaitIn, hr', hg, State.advance], hr', hg,
          by rw [hs]; exact .refl s⟩
      · refine .inr ⟨Pins.quiet, [], by simp [State.await, hl, awaitIn, hr', hg], .inr ⟨rfl, rfl⟩, ?_⟩
        have he := hw s.pins [] hr' (by simpa using hg)
        rw [hs] at he
        have : s.edge = s.atEdges Pins.quiet [] := by rw [he, State.advance, hl]; rfl
        rw [← this]
        exact .edge ⟨h1, h2, hr'⟩
  | cons q l ih =>
    intro s hl h1 h2 hw
    have hs : s.atEdges s.pins (q :: l) = s := by cases s; subst hl; rfl
    by_cases hr : s.pins.rst = true
    · refine .inr ⟨s.pins, q :: l, by simp [State.await, hl, awaitIn, hr], .inl hr, by rw [hs]; exact .refl s⟩
    · have hr' : s.pins.rst = false := by simpa using hr
      by_cases hg : g s.pins = true
      · exact .inl ⟨s.pins, q :: l, by simp [State.await, hl, awaitIn, hr', hg, State.advance], hr', hg,
          by rw [hs]; exact .refl s⟩
      · have he := hw s.pins (q :: l) hr' (by simpa using hg)
        rw [hs] at he
        have hq : s.edge = s.atEdges q l := by rw [he, State.advance, hl]; rfl
        have hf : s.Follows (s.atEdges q l) := by rw [← hq]; exact .edge ⟨h1, h2, hr'⟩
        have ha : s.await g = (s.atEdges q l).await g := by
          simp [State.await, hl, awaitIn, hr', hg]
        rw [ha]
        rcases ih (s.atEdges q l) rfl h1 h2 hw with ⟨p, m, e, hp, hgp, hfo⟩ | ⟨p, m, e, hp, hfo⟩
        · exact .inl ⟨p, m, e, hp, hgp, hf.trans rfl hfo⟩
        · exact .inr ⟨p, m, e, hp, hf.trans rfl hfo⟩

/-- The bytes `bs` are what is left of the transmit buffer of a state in TX. -/
structure State.Left (s : State) (bs : List Byte) : Prop where
  tx : s.seq = .tx
  len : s.txIdx.toNat + bs.length = s.txLen.toNat
  bytes : bs <+: s.txBuf.toList.drop s.txIdx.toNat

theorem loadTx_left {bs : List Byte} (s : State) (b : Bool) (h : bs.length ≤ 9) : (s.loadTx bs b).Left bs := by
  refine ⟨rfl, ?_, ?_⟩
  · have : BitVec.toNat (BitVec.ofNat 4 bs.length) = bs.length := by rw [BitVec.toNat_ofNat]; omega
    simp [State.loadTx, this]
  · simp only [State.loadTx_txIdx, State.loadTx_txBuf]
    rw [List.prefix_iff_eq_take]
    apply List.ext_getElem?
    intro i
    by_cases hi : i < bs.length
    · have : i < 9 := by omega
      simp [loadBytes, hi, this]
    · simp [hi]

/-- A byte-transfer edge on a byte that is presented (R204). -/
theorem txEdge_presented {s : State} {b : Byte} {bs : List Byte} (h : s.Left (b :: bs)) :
    s.txEdge =
      if s.pins.txErr then
        if s.afterTxQ then s.byteRefused.requestClose else s.byteRefused.enterResp (.plain .linkWriteFailed s.txIdx)
      else if s.pins.txReady then
        if bs = [] then
          if s.afterTxQ then (s.byteAccepted b).requestClose else (s.byteAccepted b).enterResp (.plain .ok s.txLen)
        else s.byteAccepted b
      else s := by
  obtain ⟨h1, h2, h3⟩ := h
  have hlt : s.txIdx < s.txLen := BitVec.lt_def.mpr (by simp at h2; omega)
  have hv : s.txValid = true := by simp [State.txValid, h1, hlt]
  have hb : s.txByte = b := by
    obtain ⟨l, hl⟩ := h3
    have : (s.txBuf.toList.drop s.txIdx.toNat)[0]? = some b := by rw [← hl]; rfl
    rw [List.getElem?_drop, Nat.add_zero] at this
    simp [State.txByte, List.getD, this]
  have hlast : s.txIdx + 1 = s.txLen ↔ bs = [] := by
    rw [← BitVec.toNat_inj, BitVec.toNat_add]
    have hl := s.txLen.isLt
    simp only [List.length_cons] at h2
    rw [Nat.mod_eq_of_lt (by simp; omega), ← List.length_eq_zero_iff]
    have : (1 : BitVec 4).toNat = 1 := rfl
    omega
  rw [State.txEdge, if_pos hv, hb]
  simp only [hlast]
  split_ifs <;> rfl

/-- A send, edge by edge: `sendBytes` gives the state before what the last edge starts (R12, R204). -/
theorem sendBytes_follows (bs : List Byte) :
    ∀ (s : State), bs ≠ [] → s.Left bs →
      (∃ t, sendBytes bs s = (.ok, t) ∧
        s.Follows (if s.afterTxQ then t.requestClose else t.enterResp (.plain .ok s.txLen))) ∨
      (∃ t, sendBytes bs s = (.failed, t) ∧
        s.Follows (if s.afterTxQ then t.requestClose else t.enterResp (.plain .linkWriteFailed t.txIdx))) ∨
      (∃ t, sendBytes bs s = (.pending, t) ∧ Unanswered t.pins t.later ∧ t.linkQ = s.linkQ ∧ t.seq = .tx ∧ s.Follows t) := by
  induction bs with
  | nil => intro s h; exact absurd rfl h
  | cons b bs ih =>
    intro s _ hb
    have hq : s.seq ≠ .idle ∧ s.seq ≠ .resp := by simp [hb.tx]
    have hat : ∀ p m, (s.atEdges p m).Left (b :: bs) := fun p m => ⟨hb.tx, hb.len, hb.bytes⟩
    have hw : ∀ p m, p.rst = false → Pins.byteAnswered p = false → (s.atEdges p m).edge = (s.atEdges p m).advance := by
      intro p m hp hg
      have hg' : p.txErr = false ∧ p.txReady = false := by simpa [Pins.byteAnswered] using hg
      rw [edge_tx (s := s.atEdges p m) hb.tx hp, txEdge_presented (hat p m), State.atEdges_pins, hg'.1, hg'.2]
      rfl
    rcases await_follows Pins.byteAnswered s.later s rfl hq.1 hq.2 hw with ⟨p, m, e, hp, hg, hf⟩ | ⟨p, m, e, hp, hf⟩
    · have hed : s.Follows (s.atEdges p m).edge := hf.trans rfl (.edge ⟨hq.1, hq.2, hp⟩)
      have hx : (s.atEdges p m).edge = _ := (edge_tx (s := s.atEdges p m) hb.tx hp).trans (congrArg State.advance (txEdge_presented (hat p m)))
      rw [State.atEdges_pins] at hx
      cases he : p.txErr
      · have hrd : p.txReady = true := by simpa [Pins.byteAnswered, he] using hg
        have hc : sendBytes (b :: bs) s = sendBytes bs ((s.byteAccepted b).atEdges p m).advance := by
          simp [sendBytes_cons, e, he]; rfl
        rw [he, hrd, if_neg (by decide), if_pos rfl] at hx
        cases bs with
        | nil =>
          refine .inl ⟨_, hc, ?_⟩
          rw [if_pos rfl] at hx
          rw [hx, State.atEdges_afterTxQ] at hed
          split_ifs at hed ⊢ <;> exact hed
        | cons c bs =>
          rw [if_neg (by simp)] at hx
          rw [hx] at hed
          have hlen := hb.len
          simp only [List.length_cons] at hlen
          have hl := s.txLen.isLt
          have hidx : (s.txIdx + 1).toNat = s.txIdx.toNat + 1 := by
            rw [BitVec.toNat_add]; exact Nat.mod_eq_of_lt (by simp; omega)
          have hleft : ((s.byteAccepted b).atEdges p m).advance.Left (c :: bs) := by
            refine ⟨hb.tx, ?_, ?_⟩
            · show (s.txIdx + 1).toNat + (c :: bs).length = s.txLen.toNat
              rw [hidx, List.length_cons]; omega
            · show c :: bs <+: s.txBuf.toList.drop (s.txIdx + 1).toNat
              obtain ⟨l, hl'⟩ := hb.bytes
              refine ⟨l, ?_⟩
              rw [hidx, ← List.drop_drop, ← hl']
              rfl
          rcases ih _ (by simp) hleft with ⟨t, e', hf'⟩ | ⟨t, e', hf'⟩ | ⟨t, e', hu, hl', hs', hf'⟩
          · exact .inl ⟨t, hc.trans e', hed.trans rfl hf'⟩
          · exact .inr (.inl ⟨t, hc.trans e', hed.trans rfl hf'⟩)
          · exact .inr (.inr ⟨t, hc.trans e', hu, hl', hs', hed.trans rfl hf'⟩)
      · refine .inr (.inl ⟨(s.byteRefused.atEdges p m).advance, by simp [sendBytes_cons, e, he]; rfl, ?_⟩)
        rw [he, if_pos rfl] at hx
        rw [hx, State.atEdges_afterTxQ] at hed
        split_ifs at hed ⊢ <;> exact hed
    · exact .inr (.inr ⟨s.atEdges p m, by simp [sendBytes_cons, e], hp, rfl, hb.tx, hf⟩)

end Sys2Proof.Machine
end

