-- ==== Sys2Proof/Laws/PerInstr.lean ====
section
/-! SUPPORT. Per-instruction laws of the encoding. `Presents`: over any fields, presenting a command gives fields that decode to
it (R82, R84). -/

namespace Sys2Proof.Laws.Presents

/-- Whatever fields a command is presented over, they decode to it. -/
def Statement (i : Instr) : Prop := ∀ c : Cmd, decodeCmd (encodeOver i c) = i

theorem openNone : Statement .openNone := fun _ => by simp [decodeCmd, encodeOver]

theorem openIdx (idx : PortIdx) : Statement (.openIdx idx) := fun _ => by simp [decodeCmd, encodeOver]

theorem close : Statement .close := fun _ => by simp [decodeCmd, encodeOver]

theorem write (addr : Addr) (wlen : WLen) (word : Word) : Statement (.write addr wlen word) := fun _ => by
  simp [decodeCmd, encodeOver]

theorem check (addr : Addr) (wlen : WLen) : Statement (.check addr wlen) := fun _ => by simp [decodeCmd, encodeOver]

theorem encode (addr : Addr) (word : Word) : Statement (.encode addr word) := fun _ => by
  simp [decodeCmd, encodeOver]

theorem reserved000 : Statement .reserved000 := fun _ => by simp [decodeCmd, encodeOver]

theorem reserved110 : Statement .reserved110 := fun _ => by simp [decodeCmd, encodeOver]

theorem reserved111 : Statement .reserved111 := fun _ => by simp [decodeCmd, encodeOver]

end Sys2Proof.Laws.Presents
end

