-- ==== Sys2Proof/Tests/Slice0.lean ====
section
/-! SUPPORT. Tests. The expected words, frames, responses and traces are those of spec/95_test_vectors.md (the id stands in each
test's name or comment) or are written out by hand from the rule named. The witnesses at the end show that the hypotheses of each
statement are met together by a concrete state and operands. -/

open Sys2Proof Sys2Proof.Machine

namespace Sys2Proof.Tests

/-! ## Small states and pins -/

/-- A byte is accepted. -/
def txOk : Pins := { Pins.quiet with txReady := true }

/-- A byte is refused, `tx_ready` being 1 as well. -/
def txNo : Pins := { Pins.quiet with txErr := true, txReady := true }

/-- The open attempt is answered. -/
def opens (ok : Bool) : Pins := { Pins.quiet with phyOpenDone := true, phyOpenOk := ok }

/-- The close is answered. -/
def closes : Pins := { Pins.quiet with phyCloseDone := true }

/-- The response is taken. -/
def takes : Pins := { Pins.quiet with respReady := true }

/-- A reset edge. -/
def resets : Pins := { Pins.quiet with rst := true }

/-- The command word `w` is presented, with `n` ports listed. -/
def presents (w : Nat) (n : PortIdx) : Pins :=
  { Pins.quiet with cmdValid := true, cmd := fieldsOf Config.standard w, portCount := n }

/-- The window of G-9 to G-12 and Wr-4. -/
def wide : Config := { winBottom := 0x100, winTop := 0x2000, legal := by decide }

/-- A core with its smallest widths. -/
def narrow : Config := { addrW := 12, wlenW := 3, portW := 1, legal := by decide }

/-- An idle core in link state `l` at the edges `p` and `later`. -/
def idle (l : LinkState) (p : Pins) (later : List Pins) : State :=
  { State.reset with linkQ := l, linkNext := l, pins := p, later := later }

/-- What a test looks at. -/
structure Seen where
  seq : Seq
  link : LinkState
  status : Status
  count : Nat
  trace : List PhyEvent
deriving DecidableEq, Repr

/-- What a state shows. -/
def look (t : State) : Seen := ⟨t.seq, t.linkQ, t.resp.status, t.resp.count.toNat, t.trace⟩

/-- What a result shows: sequencer, link, status and count, and what was handed to the PHY. -/
def shows (r : Result) : Option Seen :=
  match r with
  | .next t => some (look t)
  | .fault _ => none
  | .refused _ => none

/-- The flag and the frame of a result's response. -/
def carries (r : Result) : Option (Bool × BitVec 72) :=
  match r with
  | .next t => some (t.resp.flag, t.resp.frame)
  | .fault _ => none
  | .refused _ => none

/-- Whether a result is the refusal of a command that cannot be presented. -/
def notPresented (r : Result) : Bool :=
  match r with
  | .refused .notPresentable => true
  | .refused (.notModelled _) => false
  | .next _ => false
  | .fault _ => false

/-- The step of an idle core that is presented the command word `w`. -/
def runs (l : LinkState) (w : Nat) (n : PortIdx) (later : List Pins) : Result := step (idle l (presents w n) later)

/-- The word of W-1. -/
def word1 : Word := #v[0x05, 0x0A, 0x0B, 0x0C, 0x0D]

/-! ## WellFormed: an ill-formed term for each check -/

theorem test_wellFormed_refuses_an_index : (Instr.openIdx 256).wellFormed Config.standard = false := by decide
theorem test_wellFormed_refuses_a_write_address : (Instr.write 0x100000000 5 word1).wellFormed Config.standard = false := by decide
theorem test_wellFormed_refuses_a_write_length : (Instr.write 0 256 word1).wellFormed Config.standard = false := by decide
theorem test_wellFormed_refuses_a_check_address : (Instr.check 0x1000 5).wellFormed narrow = false := by decide
theorem test_wellFormed_refuses_a_check_length : (Instr.check 0 8).wellFormed narrow = false := by decide
theorem test_wellFormed_refuses_an_encode_address : (Instr.encode 0x100000000 word1).wellFormed Config.standard = false := by decide
theorem test_wellFormed_admits_the_largest_operands :
    (Instr.openIdx 255).wellFormed Config.standard = true ∧ (Instr.write 0xFFFFFFFF 255 word1).wellFormed Config.standard = true ∧
      (Instr.check 0xFFF 7).wellFormed narrow = true ∧ (Instr.encode 0xFFFFFFFF word1).wellFormed Config.standard = true := by decide
theorem test_exec_refuses_what_cannot_be_presented :
    notPresented (exec (.openIdx 256) State.reset) = true ∧ notPresented (exec (.write 0 256 word1) State.reset) = true := by decide

/-! ## Elaboration: a refused parameter set for each reason -/

theorem test_elaborate_refuses_each_illegal_parameter :
    ({ addrW := 11 } : Params).elaborate = .error .addressWidth ∧
      ({ winBottom := 4096 } : Params).elaborate = .error .window ∧
      ({ addrW := 12, winTop := 4097 } : Params).elaborate = .error .window ∧
      ({ wordLen := 4 } : Params).elaborate = .error .wordLength ∧ ({ wlenW := 2 } : Params).elaborate = .error .lengthWidth ∧
      ({ portW := 17 } : Params).elaborate = .error .portWidth := ⟨rfl, rfl, rfl, rfl, rfl, rfl⟩

/-! ## Decode: one word, or two, for every constructor -/

theorem test_decode_open : decode Config.standard 0x00000000000000000000001 = .ok .openNone := by decide
theorem test_decode_open_i : decode Config.standard 0x00000000000000000000029 = .ok (.openIdx 2) := by decide
theorem test_decode_close : decode Config.standard 0x00000000000000000000002 = .ok .close := by decide
theorem test_decode_write : decode Config.standard 0x0D0C0B0A050000000105003 = .ok (.write 1 5 word1) := by decide
theorem test_decode_check : decode Config.standard 0x00000000000000100005004 = .ok (.check 0x1000 5) := by decide
theorem test_decode_encode : decode Config.standard 0x0D0C0B0A050000000100005 = .ok (.encode 1 word1) := by decide
/-- E-10: the same command, with every field ENCODE ignores set. -/
theorem test_decode_encode_ignored_fields : decode Config.standard 0x0D0C0B0A05000000010955D = .ok (.encode 1 word1) := by decide
/-- O-16. -/
theorem test_decode_open_ignored_fields : decode Config.standard 0x0000000000FFFFFFFFFF001 = .ok .openNone := by decide
theorem test_decode_reserved000 : decode Config.standard 0x00000000000000000000000 = .ok .reserved000 := by decide
theorem test_decode_reserved110 : decode Config.standard 0x0D0C0B0A050000000105006 = .ok .reserved110 := by decide
theorem test_decode_reserved111 : decode Config.standard 0x00000000000000000000007 = .ok .reserved111 := by decide
/-- With PORT_W = 1, WLEN_W = 3 and ADDR_W = 12 the fields lie at bits 4, 7:5, 19:8 and 59:20 (R80). -/
theorem test_decode_narrow :
    decode narrow (0x0D0C0B0A05 * 2 ^ 20 + 0xABC * 2 ^ 8 + 5 * 2 ^ 5 + 3) = .ok (.write 0xABC 5 word1) := by decide
/-- 93 I15: a bit above the command word. -/
theorem test_decode_refuses_a_wider_number : decode Config.standard (2 ^ 92) = .error .notACommandWord := by decide
theorem test_encode_writes_the_published_words :
    encode Config.standard (.openIdx 254) = 0x00000000000000000000FE9 ∧
      encode Config.standard (.write 0x2A5 5 #v[0x07, 0xDE, 0xAD, 0xBE, 0xEF]) = 0xEFBEADDE07000002A505003 := by decide
theorem test_decodeTableWord :
    decodeTableWord 8 0x1 = some .openNone ∧ decodeTableWord 16 0x9 = some (.openIdx 0) ∧
      decodeTableWord 96 0x0D0C0B0A050000000100005 = some (.encode 1 word1) := by decide

/-! ## Assembler notation (R87) -/

theorem test_assemble_write : (assemble Config.standard (.write 0x2A5 [0x07, 0xDE, 0xAD, 0xBE, 0xEF])).map (packCmd Config.standard) =
    .ok 0xEFBEADDE07000002A505003 := by decide
/-- Six bytes: wlen is 6 and the sixth is dropped; G-6 has the same length with zero bytes. -/
theorem test_assemble_drops_the_sixth_byte : (assemble Config.standard (.check 0x10 [0, 0, 0, 0, 0, 9])).map (packCmd Config.standard) =
    .ok 0x00000000000000001006004 := by decide

/-- R87: `.op` is not for reserved ops only, and every field but the op is 0. -/
theorem test_assemble_op : (assemble Config.standard (.op 3)).map (packCmd Config.standard) = .ok 3 := by decide

/-! ## Commands -/

/-- W-1: the frame is at `resp_frame`, and the wire gets nothing. -/
theorem test_encode_W1 :
    shows (runs .closed 0x0D0C0B0A050000000100005 0 []) = some ⟨.resp, .closed, .ok, 0, []⟩ ∧
      carries (runs .closed 0x0D0C0B0A050000000100005 0 []) = some (false, 0xAA0D0C0B0A1500AAAA) := by decide
/-- E-2 and E-4: the largest encodable address, and the next one. -/
theorem test_encode_boundary :
    carries (runs .opened 0xFFFFFFFFFF00000FFF00005 0 []) = some (false, 0xAAFFFFFFFFFFFFAAAA) ∧
      shows (runs .opened 0x05040302010000100000005 0 []) = some ⟨.resp, .opened, .encodingOverflow, 0, []⟩ := by decide
/-- G-2, G-3, G-5 and G-8. -/
theorem test_check_default :
    carries (runs .opened 0x000000000000000FFF05004 0 []) = some (true, 0) ∧
      carries (runs .opened 0x00000000000000100005004 0 []) = some (false, 0) ∧
      carries (runs .opened 0x00000000000000001004004 0 []) = some (false, 0) ∧
      carries (runs .closed 0x00000000000000001005004 0 []) = some (false, 0) := by decide
/-- G-9 to G-12. -/
theorem test_check_wide :
    [0x0FF, 0x100, 0x1FFF, 0x2000].map (fun a => carries (exec (.check a 5) { idle .opened Pins.quiet [] with cfg := wide })) =
      [some (false, 0), some (true, 0), some (true, 0), some (false, 0)] := by decide
/-- Wr-9. -/
theorem test_write_Wr9 : shows (runs .opened 0xEFBEADDE07000002A505003 0 (List.replicate 9 txOk)) =
    some ⟨.resp, .opened, .ok, 9, bytesOf [0xAA, 0xAA, 0x2A, 0x57, 0xDE, 0xAD, 0xBE, 0xEF, 0xAA]⟩ := by decide
/-- Wr-6 with the wait and the double answer of T-2; Wr-1, Wr-3 and Wr-4. -/
theorem test_write_not_sent :
    shows (runs .opened 0xEFBEADDE07000002A505003 0 [txOk, Pins.quiet, txOk, txOk, txNo, Pins.quiet]) =
        some ⟨.resp, .opened, .linkWriteFailed, 3, bytesOf [0xAA, 0xAA, 0x2A]⟩ ∧
      shows (runs .closed 0x0D0C0B0A050000000105003 0 [txOk]) = some ⟨.resp, .closed, .ok, 0, []⟩ ∧
      shows (runs .opened 0x05040302010000100005003 0 [txOk]) = some ⟨.resp, .opened, .ok, 0, []⟩ ∧
      shows (exec (.write 0x1000 5 #v[0x11, 0x22, 0x33, 0x44, 0x55]) { idle .opened Pins.quiet [txOk] with cfg := wide }) =
        some ⟨.resp, .opened, .encodingOverflow, 0, []⟩ := by decide
/-- O-1, O-6, O-3, O-12. -/
theorem test_open :
    shows (runs .closed 0x1 0 []) = some ⟨.resp, .closed, .noPortsPresent, 0, []⟩ ∧
      shows (runs .closed 0x1 3 []) = some ⟨.resp, .closed, .invalidPortSelectionAmbiguous, 0, []⟩ ∧
      shows (runs .closed 0x1 1 (opens true :: List.replicate 8 txOk)) =
        some ⟨.resp, .opened, .ok, 8, .openReq 0 :: bytesOf (List.replicate 8 0xFF)⟩ ∧
      shows (runs .closed 0x1 1 (opens true :: List.replicate 5 txOk ++ [txNo])) =
        some ⟨.resp, .opened, .linkWriteFailed, 5, .openReq 0 :: bytesOf (List.replicate 5 0xFF)⟩ := by decide
/-- O-11 with the wait of T-3, and O-14. -/
theorem test_open_refused :
    shows (runs .closed 0x1 1 [Pins.quiet, opens false]) = some ⟨.resp, .closed, .cannotOpenPort, 0, [.openReq 0]⟩ ∧
      shows (runs .opened 0x1 1 [opens true]) = some ⟨.resp, .opened, .badLinkState, 0, []⟩ := by decide
/-- O-2, O-9, O-7, O-15. -/
theorem test_open_i :
    shows (runs .closed 0x9 0 []) = some ⟨.resp, .closed, .noPortsPresent, 0, []⟩ ∧
      shows (runs .closed 0xFF9 255 []) = some ⟨.resp, .closed, .invalidPortSelectionRange, 0, []⟩ ∧
      shows (runs .closed 0x29 3 (opens true :: List.replicate 8 txOk)) =
        some ⟨.resp, .opened, .ok, 8, .openReq 2 :: bytesOf (List.replicate 8 0xFF)⟩ ∧
      shows (runs .opened 0x49 0 []) = some ⟨.resp, .opened, .badLinkState, 0, []⟩ := by decide
/-- K-1, K-2 and K-3. -/
theorem test_close :
    shows (runs .opened 0x2 0 [txOk, closes]) = some ⟨.resp, .closed, .ok, 1, [.byte 0xFF, .closeReq]⟩ ∧
      shows (runs .opened 0x2 0 [txNo, Pins.quiet, closes]) = some ⟨.resp, .closed, .linkWriteFailed, 0, [.closeReq]⟩ ∧
      shows (runs .closed 0x2 0 [txOk, closes]) = some ⟨.resp, .closed, .ok, 0, []⟩ := by decide
/-- R187: a PHY that never answers leaves the core waiting, with the link as before the command. -/
theorem test_close_waits :
    shows (runs .opened 0x2 0 []) = some ⟨.tx, .opened, .ok, 0, []⟩ ∧
      shows (runs .opened 0x2 0 [txOk]) = some ⟨.phyClose, .opened, .ok, 0, [.byte 0xFF, .closeReq]⟩ := by decide
/-- X-1, X-4 and X-3. -/
theorem test_reserved :
    shows (runs .opened 0x0 0 []) = some ⟨.resp, .opened, .illegalCommand, 0, []⟩ ∧
      shows (runs .opened 0x0D0C0B0A050000000105006 0 []) = some ⟨.resp, .opened, .illegalCommand, 0, []⟩ ∧
      shows (runs .closed 0x7 0 []) = some ⟨.resp, .closed, .illegalCommand, 0, []⟩ := by decide

/-! ## Clock edges -/

/-- T-1: the outputs before edges 1 and 2. -/
theorem test_outputs_T1 :
    let s := (idle .opened (presents 0x2 0) [txOk, closes, takes]).edge
    (s.outputs.txValid = true ∧ s.outputs.txData = 0xFF ∧ s.outputs.phyCloseReq = false) ∧
      s.edge.outputs.txValid = false ∧ s.edge.outputs.txData = 0 ∧ s.edge.outputs.phyCloseReq = true := by decide
/-- T-4: a reset edge four bytes into the handshake of O-3; the byte of that edge is not counted. -/
theorem test_trace_T4 :
    shows (runs .closed 0x1 1 (opens true :: List.replicate 4 txOk ++ [{ resets with txReady := true }])) =
        some ⟨.tx, .closed, .ok, 0, .openReq 0 :: bytesOf (List.replicate 4 0xFF)⟩ ∧
      (match Host.Core.run Sys2Proof.core 2
          (idle .closed (presents 0x1 1) (opens true :: List.replicate 4 txOk ++ [{ resets with txReady := true }])) with
        | .next t => some (look t, t.delivered)
        | .fault _ => none
        | .refused _ => none) =
        some (⟨.idle, .closed, .ok, 0, .openReq 0 :: bytesOf (List.replicate 4 0xFF)⟩, []) := by decide
/-- Wr-6, W-1 and G-2 at the outputs: `resp_status`, `resp_count`, `link_open`, `resp_frame` and `resp_flag`. -/
theorem test_outputs_of_responses :
    ((runs .opened 0xEFBEADDE07000002A505003 0 [txOk, txOk, txOk, txNo]) |> fun r => match r with
      | .next t => some (t.outputs.respStatus, t.outputs.respCount, t.outputs.linkOpen)
      | .fault _ => none
      | .refused _ => none) = some (6, 3, 1) ∧
    (([0x0D0C0B0A050000000100005, 0x000000000000000FFF05004].map fun w => runs .opened w 0 []).map fun r => match r with
      | .next t => some (t.outputs.respFrame, t.outputs.respFlag)
      | .fault _ => none
      | .refused _ => none) = [some (0xAA0D0C0B0A1500AAAA, false), some (0, true)] := by decide
/-- The last rows of T-2: a response is held, and then taken. -/
theorem test_response_held :
    let s := { idle .opened Pins.quiet [takes] with seq := .resp }
    s.edge.seq = .resp ∧ s.edge.edge.seq = .idle ∧ s.edge.edge.delivered = [s.resp] := by decide

/-! ## Reset and presenting a command -/

theorem test_reset_outputs : State.reset.outputs.cmdReady = true ∧ State.reset.outputs.linkOpen = 0 ∧
    State.reset.outputs.cfgBaud = 0x1C200 ∧ State.reset.outputs.cfgStopBits = 2 := by decide
theorem test_withFetchWord_runs_the_word :
    (State.reset.withFetchWord 96 0x0D0C0B0A050000000100005).fetched = .encode 1 word1 ∧
      carries (step (State.reset.withFetchWord 96 0x0D0C0B0A050000000100005)) = some (false, 0xAA0D0C0B0A1500AAAA) := by decide

/-! ## Witnesses: the hypotheses of each statement, met together -/

/-- A wait of one edge before each answer. -/
def slow (p : Pins) : Answer := { waits := [Pins.quiet], last := p }

/-- An answer at once. -/
def fast (p : Pins) : Answer := { waits := [], last := p }

/-- A CLOSE in TX, as T-1 has it before edge 1. -/
def closing1 : State := (idle .opened (presents 0x2 0) [txOk, closes, takes]).edge

/-- The WRITE of Wr-9 in TX. -/
def writing1 : State := (idle .opened (presents 0xEFBEADDE07000002A505003 0) (List.replicate 9 txOk)).edge

/-- An OPEN whose PHY open is in progress. -/
def opening1 : State := (idle .closed (presents 0x1 1) [opens true]).edge

theorem closing1_inv : closing1.Inv :=
  ⟨⟨by decide, by decide, by decide, by decide⟩,
    ⟨rfl, by decide, .inr (.inr ⟨rfl, ⟨rfl, rfl⟩, ⟨rfl, rfl⟩, by decide⟩)⟩⟩

theorem writing1_inv : writing1.Inv :=
  ⟨⟨by decide, by decide, by decide, by decide⟩,
    ⟨rfl, by decide, .inl ⟨rfl, ⟨rfl, rfl⟩, ⟨rfl, rfl⟩, by decide, by decide⟩⟩⟩

theorem witness_ReservedOps :
    (Instr.reserved000, 0b000#3) ∈ [(Instr.reserved000, 0b000#3), (Instr.reserved110, 0b110#3), (Instr.reserved111, 0b111#3)] ∧
    (Instr.reserved110, 0b110#3) ∈ [(Instr.reserved000, 0b000#3), (Instr.reserved110, 0b110#3), (Instr.reserved111, 0b111#3)] ∧
    (Instr.reserved111, 0b111#3) ∈ [(Instr.reserved000, 0b000#3), (Instr.reserved110, 0b110#3), (Instr.reserved111, 0b111#3)] := by
  decide

/-- The largest operands of CHECK and ENCODE. -/
theorem witness_Check_Encode :
    (0xFFFFFFFF : Addr).toNat < 2 ^ State.reset.cfg.addrW ∧ (255 : WLen).toNat < 2 ^ State.reset.cfg.wlenW := by decide

/-- A guard false by its window, by its length, and by the link. -/
theorem witness_WriteSoftRejection :
    let s := idle .opened Pins.quiet []
    ((0x1000 : Addr).toNat < 2 ^ s.cfg.addrW ∧ (5 : WLen).toNat < 2 ^ s.cfg.wlenW ∧
      ¬ (s.cfg.winBottom ≤ (0x1000 : Addr).toNat ∧ (0x1000 : Addr).toNat < s.cfg.winTop ∧ (5 : WLen).toNat = s.cfg.wordLen ∧
        s.linkQ = .opened)) ∧
    ((4 : WLen).toNat < 2 ^ s.cfg.wlenW ∧
      ¬ (s.cfg.winBottom ≤ (0 : Addr).toNat ∧ (0 : Addr).toNat < s.cfg.winTop ∧ (4 : WLen).toNat = s.cfg.wordLen ∧
        s.linkQ = .opened)) ∧
    ¬ (State.reset.cfg.winBottom ≤ (0 : Addr).toNat ∧ (0 : Addr).toNat < State.reset.cfg.winTop ∧
      (5 : WLen).toNat = State.reset.cfg.wordLen ∧ State.reset.linkQ = .opened) := by decide

theorem witness_WriteOverflow :
    let s := { idle .opened Pins.quiet [] with cfg := wide }
    s.cfg.winBottom ≤ (0x1000 : Addr).toNat ∧ (0x1000 : Addr).toNat < s.cfg.winTop ∧ s.linkQ = .opened ∧
      4096 ≤ (0x1000 : Addr).toNat := by decide

theorem witness_WriteSends :
    let as := List.replicate 9 (slow txOk)
    let s := idle .opened Pins.quiet (answerEdges as ++ [takes])
    s.cfg.winBottom ≤ (0xFFF : Addr).toNat ∧ (0xFFF : Addr).toNat < s.cfg.winTop ∧ s.linkQ = .opened ∧
      (0xFFF : Addr).toNat < 4096 ∧ AllAccept as ∧ as.length = 9 ∧ s.later = answerEdges as ++ [takes] := by decide

/-- The last byte is refused, and the first. -/
theorem witness_WriteRefused :
    (let as := List.replicate 8 (fast txOk)
     let s := idle .opened Pins.quiet (answerEdges as ++ (slow txNo).edges ++ [])
     s.cfg.winBottom ≤ (0 : Addr).toNat ∧ (0 : Addr).toNat < s.cfg.winTop ∧ s.linkQ = .opened ∧ (0 : Addr).toNat < 4096 ∧
       AllAccept as ∧ as.length ≤ 8 ∧ (slow txNo).Is Pins.TxWait Pins.TxRefuse ∧
       s.later = answerEdges as ++ (slow txNo).edges ++ []) ∧
    AllAccept [] ∧ (fast txNo).Is Pins.TxWait Pins.TxRefuse := by decide

/-- Each of the four ends of a WRITE. -/
theorem witness_WriteResponse :
    [exec (.write 1 5 word1) (idle .opened Pins.quiet (List.replicate 9 txOk)),
      exec (.write 1 5 word1) (idle .closed Pins.quiet []),
      exec (.write 0x1000 5 word1) { idle .opened Pins.quiet [] with cfg := wide },
      exec (.write 1 5 word1) (idle .opened Pins.quiet [txNo])].map (fun r => (shows r).map Seen.seq) =
    [some .resp, some .resp, some .resp, some .resp] := by decide

/-- Both forms of a valid selection: the only port by default, and the last of 255. -/
theorem witness_OpenSends :
    let as := List.replicate 8 (slow txOk)
    let s := idle .closed (presents 0x1 1) ((slow (opens true)).edges ++ answerEdges as ++ [takes])
    let t := idle .closed (presents 0xFE9 255) ((fast (opens true)).edges ++ answerEdges as ++ [])
    (s.linkQ = .closed ∧ 1 = s.pins.portCount.toNat % 2 ^ s.cfg.portW ∧
      (slow (opens true)).Is Pins.OpenWait (Pins.OpenAnswer true) ∧ AllAccept as ∧ as.length = 8) ∧
    t.linkQ = .closed ∧ 255 = t.pins.portCount.toNat % 2 ^ t.cfg.portW ∧ (254 : PortIdx).toNat < 255 ∧
      (fast (opens true)).Is Pins.OpenWait (Pins.OpenAnswer true) := by decide

/-- The last handshake byte is refused, and the first. -/
theorem witness_OpenHandshakeFailure :
    let as := List.replicate 7 (fast txOk)
    let s := idle .closed (presents 0x1 1) ((fast (opens true)).edges ++ answerEdges as ++ (fast txNo).edges ++ [])
    s.linkQ = .closed ∧ 1 = s.pins.portCount.toNat % 2 ^ s.cfg.portW ∧
      (fast (opens true)).Is Pins.OpenWait (Pins.OpenAnswer true) ∧ AllAccept as ∧ as.length ≤ 7 ∧ AllAccept [] ∧
      (fast txNo).Is Pins.TxWait Pins.TxRefuse ∧
      s.later = (fast (opens true)).edges ++ answerEdges as ++ (fast txNo).edges ++ [] := by decide

theorem witness_OpenRefused :
    let s := idle .closed (presents 0x1 1) ((slow (opens false)).edges ++ [])
    s.linkQ = .closed ∧ 1 = s.pins.portCount.toNat % 2 ^ s.cfg.portW ∧
      (slow (opens false)).Is Pins.OpenWait (Pins.OpenAnswer false) ∧ s.later = (slow (opens false)).edges ++ [] := by decide

/-- The boundary of each invalid selection: no port, two ports and no index, one port and index 1. -/
theorem witness_OpenInvalid :
    (0 = (presents 0x1 0).portCount.toNat % 2 ^ Config.standard.portW) ∧
    (2 = (presents 0x1 2).portCount.toNat % 2 ^ Config.standard.portW ∧ 1 < 2) ∧
    (1 = (presents 0x19 1).portCount.toNat % 2 ^ Config.standard.portW ∧ 0 < 1 ∧ 1 ≤ (1 : PortIdx).toNat ∧
      (1 : PortIdx).toNat < 2 ^ Config.standard.portW) := by decide

theorem witness_OpenWhileOpen :
    (idle .opened Pins.quiet []).linkQ = .opened ∧ (255 : PortIdx).toNat < 2 ^ Config.standard.portW := by decide

theorem witness_Close :
    let s := idle .opened Pins.quiet ((slow txOk).edges ++ (slow closes).edges ++ [takes])
    let t := idle .opened Pins.quiet ((slow txNo).edges ++ (fast closes).edges ++ [])
    (s.linkQ = .opened ∧ (slow txOk).Is Pins.TxWait Pins.TxAccept ∧ (slow closes).Is Pins.CloseWait Pins.CloseDone ∧
      s.later = (slow txOk).edges ++ (slow closes).edges ++ [takes]) ∧
    (t.linkQ = .opened ∧ (slow txNo).Is Pins.TxWait Pins.TxRefuse ∧ (fast closes).Is Pins.CloseWait Pins.CloseDone ∧
      t.later = (slow txNo).edges ++ (fast closes).edges ++ []) ∧ State.reset.linkQ = .closed := by decide

/-- The frame of W-1, and both sides of the encodable range. -/
theorem witness_Encoder :
    encodeFrame 1 word1 = some #v[0xAA, 0xAA, 0x00, 0x15, 0x0A, 0x0B, 0x0C, 0x0D, 0xAA] ∧ (0xFFF : Addr).toNat < 4096 ∧
      4096 ≤ (0x1000 : Addr).toNat := by decide

/-- The words of W-1 and E-7. -/
theorem witness_Discards :
    (#v[0xF5, 0x0A, 0x0B, 0x0C, 0x0D] : Word) = word1.set 0 (0xF#4 ++ word1[0].extractLsb' 0 4) ∧
      (∃ t, exec (.encode 1 word1) State.reset = .next t) ∧ ∃ t, exec (.write 1 5 word1) (idle .opened txOk []) = .next t :=
  ⟨by decide, ⟨_, rfl⟩, ⟨_, rfl⟩⟩

theorem witness_Decode :
    (Instr.write 0xFFFFFFFF 255 word1).wellFormed Config.standard = true ∧
      2 ^ 92 - 1 < 2 ^ (3 + 1 + Config.standard.portW + Config.standard.wlenW + Config.standard.addrW + 40) ∧
      2 ^ (3 + 1 + Config.standard.portW + Config.standard.wlenW + Config.standard.addrW + 40) ≤ 2 ^ 92 := by decide

/-- The largest operand of each field that assembles, and the smallest that does not. -/
theorem witness_Assemble :
    255 < 2 ^ Config.standard.portW ∧ 2 ^ Config.standard.portW ≤ 256 ∧ 0xFFFFFFFF < 2 ^ Config.standard.addrW ∧
      2 ^ Config.standard.addrW ≤ 0x100000000 ∧ (List.replicate 255 (0 : Byte)).length < 2 ^ Config.standard.wlenW ∧
      2 ^ Config.standard.wlenW ≤ (List.replicate 256 (0 : Byte)).length := by
  rw [List.length_replicate, List.length_replicate]; decide

theorem witness_StepRuns :
    let s := idle .closed (presents 0x1 0) []
    s.pins.rst = false ∧ s.seq = .idle ∧ s.pins.cmdValid = true ∧
      decode State.reset.cfg (0x29 % 2 ^ 16) = .ok (.openIdx 2) ∧
      ¬ (State.reset.pins.rst = false ∧ State.reset.seq = .idle ∧ State.reset.pins.cmdValid = true) := by decide

/-- An OPEN that completes, with the state it leaves. -/
theorem witness_exec_next :
    ∃ t, exec .openNone (idle .closed (presents 0x1 1) (opens true :: List.replicate 8 txOk)) = .next t ∧ t.seq = .resp :=
  ⟨_, rfl, rfl⟩

/-- A CLOSE that completes. -/
theorem witness_exec_close : ∃ t, exec .close (idle .opened Pins.quiet [txOk, closes]) = .next t ∧ t.seq = .resp ∧
    t.linkQ ≠ LinkState.opened := ⟨_, rfl, rfl, by decide⟩

/-- A step that answers a next state and takes a response. -/
theorem witness_StepOnlyAppends :
    ∃ t, step { idle .opened takes [] with seq := .resp } = .next t ∧ t.delivered = [State.reset.resp] := ⟨_, rfl, rfl⟩

theorem witness_Transaction :
    let s := idle .opened (presents 0x2 0) [txOk, closes]
    s.pins.rst = false ∧ s.seq = .idle ∧ s.pins.cmdValid = true := by decide

theorem witness_ResponseHeld :
    let s := { State.reset with seq := .resp }
    s.seq = .resp ∧ s.pins.rst = false := by decide

/-- A wait, a failure and a success in PHY_OPEN. -/
theorem witness_PhyOpenEdges :
    let s := { State.reset with seq := .phyOpen }
    let t := { s with pins := opens false }
    let u := { s with pins := opens true }
    (s.seq = .phyOpen ∧ s.pins.rst = false ∧ s.pins.phyOpenDone = false) ∧
    (t.seq = .phyOpen ∧ t.pins.rst = false ∧ t.pins.phyOpenDone = true ∧ t.pins.phyOpenOk = false) ∧
    (u.seq = .phyOpen ∧ u.pins.rst = false ∧ u.pins.phyOpenDone = true ∧ u.pins.phyOpenOk = true) := by decide

/-- The last of nine bytes and the only byte of a CLOSE: refused, accepted, and waited for. -/
theorem witness_ByteTransfer :
    let s := { writing1 with txIdx := 8 }
    (s.seq = .tx ∧ s.pins.rst = false ∧ s.txIdx < s.txLen ∧ s.txLen ≤ 9 ∧ s.afterTxQ = false ∧ s.pins.txErr = false ∧
      s.pins.txReady = true ∧ s.txIdx + 1 = s.txLen) ∧
    (closing1.seq = .tx ∧ closing1.pins.rst = false ∧ closing1.txIdx < closing1.txLen ∧ closing1.txLen ≤ 9 ∧
      closing1.afterTxQ = true) ∧ (txNo.txErr = true ∧ txNo.rst = false) ∧
    Pins.quiet.txErr = false ∧ Pins.quiet.txReady = false ∧ Pins.quiet.rst = false := by decide

theorem witness_PhyCloseEdges :
    let s := closing1.edge
    s.seq = .phyClose ∧ s.pins.rst = false ∧ s.pins.phyCloseDone = true := by decide

/-- A reset edge in the middle of a send, with no reset at the edge after it. -/
theorem witness_Reset :
    let s := { writing1 with pins := resets }
    s.pins.rst = true ∧ ∃ t, step s = .next t ∧ t.pins.rst = false := ⟨rfl, _, rfl, rfl⟩

theorem witness_ExactlyOne : closing1.Inv ∧ closing1.pins.rst = false := ⟨closing1_inv, rfl⟩

/-- One input that each clause leaves free, changed. -/
theorem witness_Ignored :
    (resets.rst = true) ∧
    (State.reset.seq = .idle ∧ State.reset.pins.cmdValid = false ∧ (txNo.cmdValid = false ∧ txNo ≠ State.reset.pins)) ∧
    (let s := idle .opened (presents 0x1 1) []
     s.seq = .idle ∧ s.pins.cmdValid = true ∧ (presents 0x1 9).cmdValid = true ∧
       (presents 0x1 9).cmd.onWires s.cfg = s.pins.cmd.onWires s.cfg ∧ (s.pins.cmd.op = 0b001 → s.linkQ = .closed →
         (presents 0x1 9).portCount.toNat % 2 ^ s.cfg.portW = s.pins.portCount.toNat % 2 ^ s.cfg.portW)) ∧
    (let s := { State.reset with seq := .phyOpen }
     s.seq = .phyOpen ∧ txNo.phyOpenDone = s.pins.phyOpenDone ∧ (s.pins.phyOpenDone = true → txNo.phyOpenOk = s.pins.phyOpenOk)) ∧
    (let s := { writing1 with pins := txNo }
     s.seq = .tx ∧ ({ txNo with txReady := false } : Pins).txErr = s.pins.txErr ∧
       (s.pins.txErr = false → ({ txNo with txReady := false } : Pins).txReady = s.pins.txReady)) ∧
    ((({ State.reset with seq := .tx } : State).outputs.txValid) = false) ∧
    (let s := { State.reset with seq := .phyClose }
     s.seq = .phyClose ∧ txNo.phyCloseDone = s.pins.phyCloseDone) ∧
    (let s := { State.reset with seq := .resp }
     s.seq = .resp ∧ txNo.respReady = s.pins.respReady) := by decide

theorem witness_LinkAndResponse :
    let s := closing1.edge
    s.pins.rst = false ∧ s.edge.linkQ ≠ s.linkQ := by decide

/-- A send that waits two edges, with commands, responses and other answers on the pins all the while. -/
theorem witness_Silent :
    let w : Pins := { presents 0x1 1 with respReady := true, phyOpenDone := true, phyCloseDone := true }
    let s := { closing1 with pins := w, later := [w, txOk] }
    s.seq ≠ .idle ∧ (∀ p ∈ [w, w], p.rst = false ∧ p.Silent s.seq) ∧ s.pins :: s.later = [w, w] ++ txOk :: [] := by
  refine ⟨by decide, fun p hp => ?_, rfl⟩
  rcases List.mem_cons.mp hp with rfl | hp
  · exact ⟨rfl, rfl, rfl⟩
  · rcases List.mem_singleton.mp hp with rfl
    exact ⟨rfl, rfl, rfl⟩

theorem witness_Silent_for_ever :
    let s := { closing1 with pins := Pins.quiet, later := [] }
    s.pins = Pins.quiet ∧ s.later = [] := by decide

/-- A state in TX meets the invariant, and steps. -/
theorem witness_Invariant : writing1.Inv ∧ ∃ t, step writing1 = .next t ∧ t.seq = .tx := ⟨writing1_inv, _, rfl, rfl⟩

/-- Two states that differ in everything a WRITE must not see. -/
theorem witness_CommandsSee :
    let s := idle .opened (presents 0x0D0C0B0A050000000105003 0) [txOk]
    let t := { writing1 with pins := Pins.quiet, later := [txOk], delivered := [State.reset.resp] }
    s.cfg = t.cfg ∧ s.linkQ = t.linkQ ∧ s.later = t.later ∧ s ≠ t ∧
      (shows (exec (.write 1 5 word1) s)).isSome = true ∧ (shows (exec (.write 1 5 word1) t)).isSome = true := by decide

theorem witness_Lifecycle :
    wide.addrW = State.reset.cfg.addrW ∧ wide.wlenW = State.reset.cfg.wlenW ∧ wide.portW = State.reset.cfg.portW ∧
      ∃ t, exec .close State.reset = .next t := ⟨rfl, rfl, rfl, _, rfl⟩

theorem witness_ProgramErrorFree :
    State.reset.ProgramErrorFree ∧ (State.reset.accepting = true → isReserved State.reset.fetched = false) ∧
      ∃ t, step State.reset = .next t :=
  ⟨⟨fun r hr => by simp [State.reset] at hr, by decide⟩, by decide, _, rfl⟩

theorem witness_RoundTrip :
    let as := List.replicate 8 (fast txOk)
    let s := idle .closed (presents 0x1 1)
      ((slow (opens true)).edges ++ answerEdges as ++ [takes, presents 0x2 0] ++ (slow txOk).edges ++ (slow closes).edges ++ [])
    s.seq = .idle ∧ s.pins.rst = false ∧ s.pins.cmdValid = true ∧ s.fetched = openOf none ∧ s.linkQ = .closed ∧
      1 = s.pins.portCount.toNat % 2 ^ s.cfg.portW ∧ (slow (opens true)).Is Pins.OpenWait (Pins.OpenAnswer true) ∧
      AllAccept as ∧ as.length = 8 ∧ takes.rst = false ∧ takes.respReady = true ∧ (presents 0x2 0).rst = false ∧
      (presents 0x2 0).cmdValid = true ∧ (presents 0x2 0).cmd.op = 0b010 ∧ (slow txOk).Is Pins.TxWait Pins.TxAccept ∧
      (slow closes).Is Pins.CloseWait Pins.CloseDone ∧
      s.later = (slow (opens true)).edges ++ answerEdges as ++ [takes, presents 0x2 0] ++ (slow txOk).edges ++
        (slow closes).edges ++ [] := by decide

theorem witness_Elaborate : ({ addrW := 12, wlenW := 3, portW := 1 } : Params).elaborate = .ok narrow := rfl

end Sys2Proof.Tests
end

section
/-! PROOFS. Elaboration (R7, R26): the configurations a parameter set elaborates to, said once. -/

namespace Sys2Proof

/-- A configuration carries its legality, so being the outcome of elaboration is holding the parameters elaborated. -/
theorem Params.elaborate_eq_ok_iff {p : Params} {c : Config} : p.elaborate = .ok c ↔ c.toParams = p := by
  constructor
  · intro h
    unfold Params.elaborate at h
    split_ifs at h
    cases h
    rfl
  · rintro rfl
    obtain ⟨hA, hW, hL, hN, hP⟩ := c.legal
    simp only [Params.elaborate, dif_pos hA, dif_pos hW, dif_pos hL, dif_pos hN, dif_pos hP]

/-- R7, R26: elaboration gives a core for a legal parameter set and for no other. -/
theorem Params.exists_elaborate_iff_legal (p : Params) : (∃ c, p.elaborate = .ok c) ↔ p.Legal := by
  simp only [Params.elaborate_eq_ok_iff]
  constructor
  · rintro ⟨c, rfl⟩
    exact c.legal
  · intro h
    exact ⟨{ toParams := p, legal := h }, rfl⟩

end Sys2Proof
end

section
/-! PROOFS. The step (R13, R200): which edges accept a command, what the step is there and elsewhere, and the command a word
placed with `withFetchWord` presents. -/

namespace Sys2Proof.Machine

theorem accepting_iff (s : State) :
    s.accepting = true ↔ s.pins.rst = false ∧ s.seq = .idle ∧ s.pins.cmdValid = true := by
  simp [State.accepting, and_assoc]

theorem step_of_accepting {s : State} (h : s.accepting = true) : step s = exec s.fetched s := if_pos h

theorem step_of_not_accepting {s : State} (h : ¬ s.accepting = true) : step s = .next s.edge := if_neg h

/-- What a step that answers a next state is: the accepted command's transaction, or the clock edge. -/
theorem step_cases {s t : State} (h : step s = .next t) :
    (s.accepting = true ∧ exec s.fetched s = .next t) ∨ (¬ s.accepting = true ∧ t = s.edge) := by
  by_cases ha : s.accepting = true
  · exact .inl ⟨ha, by rw [← step_of_accepting ha, h]⟩
  · rw [step_of_not_accepting ha] at h
    cases h
    exact .inr ⟨ha, rfl⟩

/-- The command the channel presents can be presented: its fields come off the wires at their own widths (93 I15). -/
theorem fetched_wellFormed (s : State) : s.fetched.wellFormed s.cfg = true :=
  decodeCmd_wellFormed (Cmd.onWires_fits s.cfg s.pins.cmd)

theorem decode_eq_ok_iff {cfg : Config} {w : Nat} {i : Instr} :
    decode cfg w = .ok i ↔ w < 2 ^ cmdwBits cfg ∧ decodeCmd (fieldsOf cfg w) = i := by
  unfold decode
  split_ifs with hw <;> simp [hw]

@[simp] theorem State.withFetchWord_presented (s : State) (nbits w : Nat) :
    (s.withFetchWord nbits w).presented = fieldsOf s.cfg (w % 2 ^ nbits) :=
  Cmd.onWires_eq_of_fits (fieldsOf_fits s.cfg (w % 2 ^ nbits))

theorem State.withFetchWord_accepting (s : State) (nbits w : Nat) : (s.withFetchWord nbits w).accepting = true := rfl

/-- A placed word that decodes is the command the next edge accepts. -/
theorem State.withFetchWord_fetched {s : State} {nbits w : Nat} {i : Instr} (h : decode s.cfg (w % 2 ^ nbits) = .ok i) :
    (s.withFetchWord nbits w).fetched = i := by
  rw [State.fetched, State.withFetchWord_presented]
  exact (decode_eq_ok_iff.mp h).2

/-- Settles O25: by the two cases of `accepting`, and for a placed word because its fields pass the wires unchanged. -/
theorem stepRunsThePresentedCommand : Obligations.StepRunsThePresentedCommand := by
  unfold Obligations.StepRunsThePresentedCommand
  refine ⟨fun s hr hq hv => ?_, fun s nbits w i h => ?_, fun s h => ?_⟩
  · exact step_of_accepting ((accepting_iff s).mpr ⟨hr, hq, hv⟩)
  · rw [step_of_accepting (s.withFetchWord_accepting nbits w), State.withFetchWord_fetched h]
  · exact step_of_not_accepting (mt (accepting_iff s).mp h)

end Sys2Proof.Machine
end

section
/-! PROOFS. The configuration is hardwired (R25): no edge and no command changes it. -/

namespace Sys2Proof.Machine

@[simp] theorem State.sent_cfg (bs : List Byte) (s : State) : (s.sent bs).cfg = s.cfg := rfl

/-! ## Clock edges -/

/-- The acceptance action for every op ends the command, requests a PHY open, or loads a send. -/
@[simp] theorem State.acceptAction_cfg (n : PortIdx) (t : State) : (t.acceptAction n).cfg = t.cfg := by
  unfold State.acceptAction
  repeat' split
  all_goals rfl

@[simp] theorem State.phyOpenEdge_cfg (s : State) : s.phyOpenEdge.cfg = s.cfg := by
  unfold State.phyOpenEdge
  split_ifs <;> rfl

@[simp] theorem State.txEdge_cfg (s : State) : s.txEdge.cfg = s.cfg := by
  unfold State.txEdge
  split_ifs <;> rfl

@[simp] theorem State.phyCloseEdge_cfg (s : State) : s.phyCloseEdge.cfg = s.cfg := by
  unfold State.phyCloseEdge
  split_ifs <;> rfl

@[simp] theorem State.respEdge_cfg (s : State) : s.respEdge.cfg = s.cfg := by
  unfold State.respEdge
  split_ifs <;> rfl

@[simp] theorem State.edge_cfg (s : State) : s.edge.cfg = s.cfg := by
  cases hr : s.pins.rst with
  | true => rw [edge_reset hr, State.resetEdge_cfg]
  | false =>
    cases hq : s.seq with
    | idle =>
      rw [edge_idle hq hr]
      split_ifs <;> simp [State.acceptEdge]
    | phyOpen => simp [edge_phyOpen hq hr]
    | tx => simp [edge_tx hq hr]
    | phyClose => simp [edge_phyClose hq hr]
    | resp => simp [edge_resp hq hr]

/-! ## Commands -/

theorem sendFrame_cfg {f : Frame} {s t : State} (h : sendFrame f s = .next t) : t.cfg = s.cfg := by
  obtain ⟨k, p, l, he | ⟨-, he⟩ | ⟨-, he, -⟩⟩ := sendFrame_cases f s <;>
  · cases he.symm.trans h
    simp

theorem sendHandshake_cfg {s t : State} (h : sendHandshake s = .next t) : t.cfg = s.cfg := by
  obtain ⟨k, p, l, he | ⟨-, he⟩ | ⟨-, he, -⟩⟩ := sendHandshake_cases s <;>
  · cases he.symm.trans h
    simp

theorem openPort_cfg {sel : PortIdx} {s t : State} (h : openPort sel s = .next t) : t.cfg = s.cfg := by
  obtain ⟨p, l, he | ⟨he, -⟩ | he⟩ := openPort_cases sel s
  · cases he.symm.trans h
    simp
  · cases he.symm.trans h
    simp
  · simpa using sendHandshake_cfg (he.symm.trans h)

theorem closePhy_cfg {s t : State} (h : closePhy s = .next t) : t.cfg = s.cfg := by
  obtain ⟨p, l, he | ⟨he, -⟩⟩ := closePhy_cases s <;>
  · cases he.symm.trans h
    simp

theorem shutDown_cfg {s t : State} (h : shutDown s = .next t) : t.cfg = s.cfg := by
  obtain ⟨p, l, he | he | ⟨he, -⟩⟩ := shutDown_cases s
  · simpa using closePhy_cfg (he.symm.trans h)
  · simpa using closePhy_cfg (he.symm.trans h)
  · cases he.symm.trans h
    simp

theorem exec_cfg {i : Instr} {s t : State} (hw : i.wellFormed s.cfg = true) (h : exec i s = .next t) : t.cfg = s.cfg := by
  cases exec_shape hw with
  | immediate r him =>
    cases him.answer.symm.trans h
    simp
  | send addr wlen word _ _ _ answer => simpa using sendFrame_cfg (answer.symm.trans h)
  | opening o sel _ _ _ answer => simpa using openPort_cfg (answer.symm.trans h)
  | closing _ _ answer => simpa using shutDown_cfg (answer.symm.trans h)

theorem step_cfg {s t : State} (h : step s = .next t) : t.cfg = s.cfg := by
  obtain ⟨-, he⟩ | ⟨-, rfl⟩ := step_cases h
  · exact exec_cfg (fetched_wellFormed s) he
  · exact s.edge_cfg

/-- Settles O51: elaboration accepts exactly the parameter sets a configuration can hold, and every command and every edge
keeps the configuration. -/
theorem coreExistsExactlyForLegalParameters : Obligations.CoreExistsExactlyForLegalParameters := by
  unfold Obligations.CoreExistsExactlyForLegalParameters
  exact ⟨Params.exists_elaborate_iff_legal, fun _ _ => Params.elaborate_eq_ok_iff.mp, Params.elaborate_eq_ok_iff.mpr rfl,
    fun _ _ => step_cfg⟩

end Sys2Proof.Machine
end

section
/-! PROOFS. The invariant of the core (R27 to R31, R200 to R205): what it says in each sequencer state, and one rule for each
operation of a clock edge that leads to a state meeting it. -/

namespace Sys2Proof.Machine

/-! ## The phases -/

/-- A command in TX is a WRITE, an OPEN or a CLOSE with its bytes in `tx_buf`. -/
def State.Sending (s : State) : Prop := s.SendingWrite ∨ s.SendingHandshake ∨ s.SendingShutdown

theorem inPhase_idle {s : State} (h : s.seq = .idle) : s.InPhase ↔ s.linkNext = s.linkQ := by
  simp only [State.InPhase, h]

theorem inPhase_phyOpen {s : State} (h : s.seq = .phyOpen) :
    s.InPhase ↔ s.opQ = 0b001 ∧ s.linkQ = .closed ∧ s.linkNext = .closed := by
  simp only [State.InPhase, h]

theorem inPhase_tx {s : State} (h : s.seq = .tx) :
    s.InPhase ↔ s.txFail = false ∧ s.txIdx < s.txLen ∧ s.Sending := by
  simp only [State.InPhase, State.Sending, h]

theorem inPhase_phyClose {s : State} (h : s.seq = .phyClose) :
    s.InPhase ↔
      s.opQ = 0b010 ∧ s.linkQ = .opened ∧ s.linkNext = .closed ∧ s.txIdx = if s.txFail then 0 else 1 := by
  simp only [State.InPhase, h]

theorem inPhase_resp {s : State} (h : s.seq = .resp) :
    s.InPhase ↔ s.linkNext = s.linkQ ∧ responseAllowed s.opQ s.idxGivenQ s.resp := by
  simp only [State.InPhase, h]

/-! ## What the invariant depends on -/

/-- `Fits` speaks of the configuration and four latches only. -/
theorem State.Fits.of_eq {s t : State} (h : s.Fits)
    (e : (t.cfg, t.idxQ, t.selQ, t.addrQ, t.wlenQ) = (s.cfg, s.idxQ, s.selQ, s.addrQ, s.wlenQ)) : t.Fits := by
  simp only [Prod.mk.injEq] at e
  obtain ⟨hc, hi, hs, ha, hl⟩ := e
  exact ⟨hc ▸ hi ▸ h.idx, hc ▸ hs ▸ h.sel, hc ▸ ha ▸ h.addr, hc ▸ hl ▸ h.wlen⟩

/-- The registers that a command in TX has set and that no byte transfer changes. -/
def State.sendRegs (s : State) :
    Config × BitVec 3 × LinkState × LinkState × BitVec 4 × Bool × Addr × WLen × Word × Frame :=
  (s.cfg, s.opQ, s.linkQ, s.linkNext, s.txLen, s.afterTxQ, s.addrQ, s.wlenQ, s.wordQ, s.txBuf)

theorem State.Sending.of_eq {s t : State} (h : s.Sending) (e : t.sendRegs = s.sendRegs) : t.Sending := by
  simp only [State.sendRegs, Prod.mk.injEq] at e
  obtain ⟨hc, ho, hl, hn, ht, ha, hA, hL, hW, hb⟩ := e
  rcases h with h | h | h
  · exact .inl
      ⟨ho ▸ h.op, hl ▸ hn ▸ h.link, ht ▸ ha ▸ h.send, hc ▸ hA ▸ hL ▸ h.window, hb ▸ hA ▸ hW ▸ h.frame⟩
  · exact .inr (.inl ⟨ho ▸ h.op, hl ▸ hn ▸ h.link, ht ▸ ha ▸ h.send, hb ▸ h.frame⟩)
  · exact .inr (.inr ⟨ho ▸ h.op, hl ▸ hn ▸ h.link, ht ▸ ha ▸ h.send, hb ▸ h.frame⟩)

/-- The pins and the later edges are the agents': the invariant says nothing of them. -/
theorem State.Inv.atEdges {s : State} (h : s.Inv) (p : Pins) (l : List Pins) : (s.atEdges p l).Inv := by
  refine ⟨h.fits.of_eq rfl, ?_⟩
  have hp := h.inPhase
  cases hq : s.seq with
  | idle => exact (inPhase_idle (s := s.atEdges p l) hq).mpr ((inPhase_idle hq).mp hp)
  | phyOpen => exact (inPhase_phyOpen (s := s.atEdges p l) hq).mpr ((inPhase_phyOpen hq).mp hp)
  | tx =>
    obtain ⟨hf, hi, hs⟩ := (inPhase_tx hq).mp hp
    exact (inPhase_tx (s := s.atEdges p l) hq).mpr ⟨hf, hi, hs.of_eq rfl⟩
  | phyClose => exact (inPhase_phyClose (s := s.atEdges p l) hq).mpr ((inPhase_phyClose hq).mp hp)
  | resp => exact (inPhase_resp (s := s.atEdges p l) hq).mpr ((inPhase_resp hq).mp hp)

theorem State.Inv.advance {s : State} (h : s.Inv) : s.advance.Inv := h.atEdges _ _

/-! ## Reset, and the ends of a command -/

/-- Every latch is 0 and `link_next` is `link_q` (R43). -/
theorem resetEdge_inv (s : State) : s.resetEdge.Inv := by
  refine ⟨⟨?_, ?_, ?_, ?_⟩, (inPhase_idle rfl).mpr rfl⟩ <;> simp [State.reset]

theorem enterResp_inv {s : State} {r : Response} (hf : s.Fits) (ha : responseAllowed s.opQ s.idxGivenQ r) :
    (s.enterResp r).Inv :=
  ⟨hf.of_eq rfl, (inPhase_resp rfl).mpr ⟨rfl, ha⟩⟩

theorem takeResponse_inv {s : State} (h : s.Inv) (hq : s.seq = .resp) : s.takeResponse.Inv :=
  ⟨h.fits.of_eq rfl, (inPhase_idle rfl).mpr ((inPhase_resp hq).mp h.inPhase).1⟩

/-! ## The requests and the sends -/

theorem requestOpen_inv {s : State} {sel : PortIdx} (hf : s.Fits) (ho : s.opQ = 0b001)
    (hl : s.linkQ = .closed ∧ s.linkNext = .closed) (hs : sel.toNat < 2 ^ s.cfg.portW) : (s.requestOpen sel).Inv :=
  ⟨⟨hf.idx, hs, hf.addr, hf.wlen⟩, (inPhase_phyOpen rfl).mpr ⟨ho, hl⟩⟩

theorem requestClose_inv {s : State} (hf : s.Fits) (ho : s.opQ = 0b010) (hl : s.linkQ = .opened ∧ s.linkNext = .closed)
    (hi : s.txIdx = if s.txFail then 0 else 1) : s.requestClose.Inv :=
  ⟨hf.of_eq rfl, (inPhase_phyClose rfl).mpr ⟨ho, hl.1, hl.2, hi⟩⟩

/-- A send begins with a byte to present and no failure. -/
theorem loadTx_inv {s : State} {bs : List Byte} {thenClose : Bool} (hf : s.Fits)
    (h0 : (0 : BitVec 4) < BitVec.ofNat 4 bs.length) (hs : (s.loadTx bs thenClose).Sending) : (s.loadTx bs thenClose).Inv :=
  ⟨hf.of_eq rfl, (inPhase_tx rfl).mpr ⟨rfl, h0, hs⟩⟩

/-- The bytes loaded are the first of `tx_buf` (R200, R203). -/
theorem take_loadBytes {bs : List Byte} (buf : Frame) (h : bs.length ≤ 9) :
    (loadBytes bs buf).toList.take bs.length = bs := by
  apply List.ext_getElem?
  intro i
  by_cases hi : i < bs.length
  · have : i < 9 := by omega
    simp [loadBytes, hi, this]
  · simp [hi]

/-- A WRITE loads its frame where its guard is true and its address can be encoded (R131). -/
theorem loadTx_sendingWrite {s : State} (ho : s.opQ = 0b011) (hl : s.linkNext = s.linkQ)
    (hg : guard s.cfg s.addrQ s.wlenQ s.linkQ = true) (h4 : s.addrQ.toNat < 4096) :
    (s.loadTx (writeFrame s.addrQ s.wordQ).toList false).SendingWrite := by
  obtain ⟨hb, ht, hw, hq⟩ := (guard_iff _ _ _ _).mp hg
  refine ⟨ho, ⟨hq, hl.trans hq⟩, ⟨rfl, rfl⟩, ⟨hb, ht, h4, ?_⟩, loadBytes_frame _ _⟩
  exact BitVec.eq_of_toNat_eq (hw.trans s.cfg.wordLen_eq)

/-- An OPEN loads the handshake once its PHY handle is open (R203). -/
theorem loadTx_sendingHandshake {s : State} (ho : s.opQ = 0b001) (hl : s.linkQ = .closed) :
    ((s.setLinkNext .opened).loadTx openHandshake false).SendingHandshake :=
  ⟨ho, ⟨hl, rfl⟩, ⟨rfl, rfl⟩, take_loadBytes (bs := openHandshake) _ (by decide)⟩

/-- A CLOSE loads the shutdown byte (R200). -/
theorem loadTx_sendingShutdown {s : State} (ho : s.opQ = 0b010) (hl : s.linkQ = .opened) :
    ((s.setLinkNext .closed).loadTx closeHandshake true).SendingShutdown :=
  ⟨ho, ⟨hl, rfl⟩, ⟨rfl, rfl⟩, take_loadBytes (bs := closeHandshake) _ (by decide)⟩

/-! ## The responses of a send (R131, R150, R152) -/

/-- Only a CLOSE goes on after its byte. -/
theorem State.Sending.cases {s : State} (h : s.Sending) :
    (s.afterTxQ = true ∧ s.SendingShutdown) ∨
    (s.afterTxQ = false ∧ responseAllowed s.opQ s.idxGivenQ (.plain .ok s.txLen) ∧
      ∀ k < s.txLen, responseAllowed s.opQ s.idxGivenQ (.plain .linkWriteFailed k)) := by
  rcases h with h | h | h
  · refine .inr ⟨h.send.2, ?_, fun k hk => ?_⟩
    · simp [responseAllowed, Response.Plain, Response.plain, h.op, h.send]
    · have hk : k ≤ 8 := by rw [h.send.1] at hk; bv_omega
      simpa [responseAllowed, Response.Plain, Response.plain, h.op] using hk
  · refine .inr ⟨h.send.2, ?_, fun k hk => ?_⟩
    · simp [responseAllowed, Response.Plain, Response.plain, h.op, h.send]
    · have hk : k ≤ 7 := by rw [h.send.1] at hk; bv_omega
      simpa [responseAllowed, Response.Plain, Response.plain, h.op] using hk
  · exact .inl ⟨h.send.2, h⟩

end Sys2Proof.Machine
end

section
/-! PROOFS. Every clock edge keeps the invariant (R200 to R205, R210). -/

namespace Sys2Proof.Machine

/-- The action of an accepted command, on latches that hold its operands (R200). -/
theorem acceptAction_inv {s : State} {n : PortIdx} (hf : s.Fits) (hl : s.linkNext = s.linkQ)
    (hn : n.toNat < 2 ^ s.cfg.portW) : (s.acceptAction n).Inv := by
  have allowed : ∀ {op e}, s.opQ = op → (∀ g, responseAllowed op g (.plain e 0)) → (s.enterResp (.plain e 0)).Inv :=
    fun ho h => enterResp_inv hf (ho ▸ h _)
  rcases op_cases s.opQ with ho | ho | ho | ho | ho | ho | ho | ho
  · rw [acceptAction_reserved (.inl ho)]
    exact allowed ho (by simp [responseAllowed, Response.Plain, Response.plain])
  · rw [acceptAction_open ho]
    cases hq : s.linkQ with
    | opened => exact allowed ho (by simp [responseAllowed, Response.Plain, Response.plain])
    | closed =>
      cases hs : selectPort n s.idxGivenQ s.idxQ with
      | ok sel => exact requestOpen_inv hf ho ⟨hq, hl.trans hq⟩ ((selectPort_lt hs).trans hn)
      | error e =>
        refine enterResp_inv hf ?_
        rcases selectPort_error hs with ⟨rfl, -⟩ | ⟨rfl, hg, -⟩ | ⟨rfl, hg, -⟩ <;>
          simp_all [responseAllowed, Response.Plain, Response.plain]
  · rw [acceptAction_close ho]
    cases hq : s.linkQ with
    | closed => exact allowed ho (by simp [responseAllowed, Response.Plain, Response.plain])
    | opened => exact loadTx_inv (hf.of_eq rfl) (by decide) (.inr (.inr (loadTx_sendingShutdown ho hq)))
  · rw [acceptAction_write ho]
    split_ifs with hg h4
    · exact loadTx_inv hf (by rw [Vector.length_toList]; decide) (.inl (loadTx_sendingWrite ho hl hg h4))
    all_goals exact allowed ho (by simp [responseAllowed, Response.Plain, Response.plain])
  · rw [acceptAction_check ho]
    exact enterResp_inv hf (by simp [responseAllowed, ho])
  · rw [acceptAction_encode ho]
    split_ifs <;> exact enterResp_inv hf (by simp [responseAllowed, Response.plain, ho])
  · rw [acceptAction_reserved (.inr (.inl ho))]
    exact allowed ho (by simp [responseAllowed, Response.Plain, Response.plain])
  · rw [acceptAction_reserved (.inr (.inr ho))]
    exact allowed ho (by simp [responseAllowed, Response.Plain, Response.plain])

/-- What the channel presents comes off the wires at its own width, so the latches fit their fields (R27). -/
theorem latch_presented_fits {s : State} (h : s.Fits) : (s.latch s.presented).Fits := by
  obtain ⟨hi, hw, ha⟩ := Cmd.onWires_fits s.cfg s.pins.cmd
  exact ⟨hi, h.sel, ha, hw⟩

theorem portCount_lt (s : State) : s.portCount.toNat < 2 ^ s.cfg.portW := lowBits_lt _ _

theorem acceptEdge_inv {s : State} (h : s.Inv) : s.acceptEdge.Inv :=
  acceptAction_inv (latch_presented_fits h.fits) rfl (portCount_lt s)

theorem phyOpenEdge_inv {s : State} (h : s.Inv) (hq : s.seq = .phyOpen) : s.phyOpenEdge.Inv := by
  obtain ⟨ho, hl, -⟩ := (inPhase_phyOpen hq).mp h.inPhase
  unfold State.phyOpenEdge
  split_ifs
  · exact loadTx_inv (h.fits.of_eq rfl) (by decide) (.inr (.inl (loadTx_sendingHandshake ho hl)))
  · exact enterResp_inv h.fits (by simp [responseAllowed, Response.Plain, ho])
  · exact h

theorem txValid_of_inv {s : State} (h : s.Inv) (hq : s.seq = .tx) : s.txValid = true := by
  obtain ⟨-, hi, -⟩ := (inPhase_tx hq).mp h.inPhase
  simp [State.txValid, hq, hi]

theorem txEdge_inv {s : State} (h : s.Inv) (hq : s.seq = .tx) : s.txEdge.Inv := by
  obtain ⟨hf, hi, hs⟩ := (inPhase_tx hq).mp h.inPhase
  rw [State.txEdge, if_pos (txValid_of_inv h hq)]
  rcases hs.cases with ⟨ha, hc⟩ | ⟨ha, hok, hbad⟩ <;> simp only [ha, if_true, Bool.false_eq_true, if_false]
  · have h0 : s.txIdx = 0 := by have := hc.send.1 ▸ hi; bv_omega
    split_ifs with he hr hl
    · exact requestClose_inv (h.fits.of_eq rfl) hc.op hc.link h0
    · exact requestClose_inv (h.fits.of_eq rfl) hc.op hc.link (by simp [h0, hf])
    · exact absurd (by rw [h0, hc.send.1]; rfl) hl
    · exact h
  · split_ifs with he hr hl
    · exact enterResp_inv (h.fits.of_eq rfl) (hbad _ hi)
    · exact enterResp_inv (h.fits.of_eq rfl) hok
    · have hlt : s.txIdx + 1 < s.txLen := by bv_omega
      exact ⟨h.fits.of_eq rfl, (inPhase_tx (s := s.byteAccepted _) hq).mpr ⟨hf, hlt, hs.of_eq rfl⟩⟩
    · exact h

theorem phyCloseEdge_inv {s : State} (h : s.Inv) (hq : s.seq = .phyClose) : s.phyCloseEdge.Inv := by
  obtain ⟨ho, -, -, hi⟩ := (inPhase_phyClose hq).mp h.inPhase
  unfold State.phyCloseEdge
  split
  · refine enterResp_inv h.fits ?_
    cases hf : s.txFail <;> simp [responseAllowed, Response.Plain, ho, hi, hf]
  · exact h

theorem respEdge_inv {s : State} (h : s.Inv) (hq : s.seq = .resp) : s.respEdge.Inv := by
  unfold State.respEdge
  split_ifs
  · exact takeResponse_inv h hq
  · exact h

theorem edge_inv {s : State} (h : s.Inv) : s.edge.Inv := by
  cases hr : s.pins.rst with
  | true => exact edge_reset hr ▸ resetEdge_inv s
  | false =>
    cases hq : s.seq with
    | idle =>
      rw [edge_idle hq hr]
      split_ifs
      · exact (acceptEdge_inv h).advance
      · exact h.advance
    | phyOpen => exact edge_phyOpen hq hr ▸ (phyOpenEdge_inv h hq).advance
    | tx => exact edge_tx hq hr ▸ (txEdge_inv h hq).advance
    | phyClose => exact edge_phyClose hq hr ▸ (phyCloseEdge_inv h hq).advance
    | resp => exact edge_resp hq hr ▸ (respEdge_inv h hq).advance

/-- Settles O43, by the sequencer state the edge meets: each kind of edge has its own lemma above. -/
theorem clockEdgeKeepsTheInvariant : Obligations.ClockEdgeKeepsTheInvariant := fun _ => edge_inv

end Sys2Proof.Machine
end

section
/-! PROOFS. The transaction of an accepted command follows the clock edges after its acceptance edge (R13, R200 to R206), so what
every such edge keeps, the transaction keeps. -/

namespace Sys2Proof.Machine

/-! ## The sends and the waits, edge by edge -/

theorem sendFrame_follows (f : Frame) (s : State) :
    ∃ t, sendFrame f s = .next t ∧ (s.loadTx f.toList false).Follows t := by
  have hl : (s.loadTx f.toList false).txLen = 9 := by rw [State.loadTx_txLen, Vector.length_toList]; rfl
  rcases sendBytes_follows f.toList (s.loadTx f.toList false) (by simp)
    (loadTx_left s false (by simp)) with ⟨t, e, hf⟩ | ⟨t, e, hf⟩ | ⟨t, e, -, -, -, hf⟩
  · exact ⟨_, by simp only [sendFrame, e]; rfl, hl ▸ hf⟩
  · exact ⟨_, by simp only [sendFrame, e]; rfl, hf⟩
  · exact ⟨t, by simp only [sendFrame, e], hf⟩

theorem sendHandshake_follows (s : State) :
    ∃ t, sendHandshake s = .next t ∧ ((s.setLinkNext .opened).loadTx openHandshake false).Follows t := by
  rcases sendBytes_follows openHandshake ((s.setLinkNext .opened).loadTx openHandshake false) (by decide)
    (loadTx_left _ false (by decide)) with ⟨t, e, hf⟩ | ⟨t, e, hf⟩ | ⟨t, e, -, -, -, hf⟩
  · exact ⟨_, by simp only [sendHandshake, e]; rfl, hf⟩
  · exact ⟨_, by simp only [sendHandshake, e]; rfl, hf⟩
  · exact ⟨t, by simp only [sendHandshake, e], hf⟩

theorem openPort_follows (sel : PortIdx) (s : State) :
    ∃ t, openPort sel s = .next t ∧ (s.requestOpen sel).Follows t := by
  rcases await_follows Pins.phyOpenDone _ (s.requestOpen sel) rfl (by simp) (by simp)
    (fun p m hp hg => by rw [edge_phyOpen rfl hp, State.phyOpenEdge, State.atEdges_pins, hg]; rfl)
    with ⟨p, m, e, hp, hg, hf⟩ | ⟨p, m, e, -, hf⟩
  · have hed : (s.requestOpen sel).Follows ((s.requestOpen sel).atEdges p m).edge :=
      hf.trans rfl (.edge ⟨by simp, by simp, hp⟩)
    rw [edge_phyOpen rfl hp, State.phyOpenEdge, State.atEdges_pins, hg, if_pos rfl] at hed
    simp only [openPort, e]
    split_ifs at hed ⊢
    · obtain ⟨t, he, ht⟩ := sendHandshake_follows ((s.requestOpen sel).atEdges p m).advance
      exact ⟨t, he, hed.trans rfl ht⟩
    · exact ⟨_, rfl, hed⟩
  · exact ⟨_, by simp only [openPort, e], hf⟩

theorem closePhy_follows (s : State) : ∃ t, closePhy s = .next t ∧ s.requestClose.Follows t := by
  rcases await_follows Pins.phyCloseDone _ s.requestClose rfl (by simp) (by simp)
    (fun p m hp hg => by rw [edge_phyClose rfl hp, State.phyCloseEdge, State.atEdges_pins, hg]; rfl)
    with ⟨p, m, e, hp, hg, hf⟩ | ⟨p, m, e, -, hf⟩
  · have hed : s.requestClose.Follows (s.requestClose.atEdges p m).edge := hf.trans rfl (.edge ⟨by simp, by simp, hp⟩)
    rw [edge_phyClose rfl hp, State.phyCloseEdge, State.atEdges_pins, hg, if_pos rfl] at hed
    refine ⟨_, ?_, hed⟩
    simp only [closePhy, e]
    cases h : s.txFail <;> simp [h, raise, respond] <;> rfl
  · exact ⟨_, by simp only [closePhy, e], hf⟩

theorem sendBytes_linkQ (bs : List Byte) (s : State) : (sendBytes bs s).2.linkQ = s.linkQ := by
  obtain ⟨k, p, l, ⟨-, h⟩ | ⟨-, h⟩ | ⟨-, h, -⟩⟩ := sendBytes_cases bs s <;> rw [h] <;> rfl

theorem shutDown_follows (s : State) :
    ∃ t, shutDown s = .next t ∧ ((s.setLinkNext .closed).loadTx closeHandshake true).Follows t := by
  have hl := sendBytes_linkQ closeHandshake ((s.setLinkNext .closed).loadTx closeHandshake true)
  rcases sendBytes_follows closeHandshake ((s.setLinkNext .closed).loadTx closeHandshake true) (by decide)
    (loadTx_left _ true (by decide)) with ⟨t, e, hf⟩ | ⟨t, e, hf⟩ | ⟨t, e, -, -, -, hf⟩
  · obtain ⟨u, hu, hfu⟩ := closePhy_follows t
    exact ⟨u, by simp only [shutDown, e, hu], hf.trans (by rw [e] at hl; exact hl) hfu⟩
  · obtain ⟨u, hu, hfu⟩ := closePhy_follows t
    exact ⟨u, by simp only [shutDown, e, hu], hf.trans (by rw [e] at hl; exact hl) hfu⟩
  · exact ⟨t, by simp only [shutDown, e], hf⟩

/-! ## The acceptance edge (R200) -/

/-- The acceptance action does not look at the edges. -/
theorem acceptAction_advance (n : PortIdx) (t : State) : (t.acceptAction n).advance = t.advance.acceptAction n := by
  rcases op_cases t.opQ with ho | ho | ho | ho | ho | ho | ho | ho
  · rw [acceptAction_reserved (.inl ho), acceptAction_reserved (t := t.advance) (.inl ho)]
    rfl
  · rw [acceptAction_open ho, acceptAction_open (t := t.advance) ho, State.advance_linkQ, State.advance_idxGivenQ,
      State.advance_idxQ]
    cases t.linkQ with
    | opened => rfl
    | closed => cases selectPort n t.idxGivenQ t.idxQ <;> rfl
  · rw [acceptAction_close ho, acceptAction_close (t := t.advance) ho, State.advance_linkQ]
    cases t.linkQ <;> rfl
  · rw [acceptAction_write ho, acceptAction_write (t := t.advance) ho, apply_ite State.advance, apply_ite State.advance]
    rfl
  · rw [acceptAction_check ho, acceptAction_check (t := t.advance) ho]
    rfl
  · rw [acceptAction_encode ho, acceptAction_encode (t := t.advance) ho, apply_ite State.advance]
    rfl
  · rw [acceptAction_reserved (.inr (.inl ho)), acceptAction_reserved (t := t.advance) (.inr (.inl ho))]
    rfl
  · rw [acceptAction_reserved (.inr (.inr ho)), acceptAction_reserved (t := t.advance) (.inr (.inr ho))]
    rfl

theorem acceptEdge_advance (s : State) : s.acceptEdge.advance = (s.accept s.fetched).acceptAction s.portCount := by
  rw [State.acceptEdge, acceptAction_advance, latch_advance]

theorem edge_of_accepting {s : State} (h : s.accepting = true) :
    s.edge = (s.accept s.fetched).acceptAction s.portCount := by
  obtain ⟨hr, hq, hv⟩ := (accepting_iff s).mp h
  rw [edge_idle hq hr, if_pos hv, acceptEdge_advance]

/-! ## The transaction -/

/-- Where no index is given, none is looked at (R143). -/
theorem selectPort_none (n idx idx' : PortIdx) : selectPort n false idx = selectPort n false idx' := by simp [selectPort]

theorem accept_selectPort (n : PortIdx) (o : Option PortIdx) (s : State) :
    selectPort n (s.accept (openOf o)).idxGivenQ (s.accept (openOf o)).idxQ = selectPort n o.isSome (o.getD 0) := by
  cases o with
  | none => exact selectPort_none _ _ _
  | some idx => rfl

/-- The latches of an accepted WRITE hold its operands. -/
theorem acceptAction_accept_write (n : PortIdx) (s : State) (addr : Addr) (wlen : WLen) (word : Word) :
    (s.accept (.write addr wlen word)).acceptAction n =
      if guard s.cfg addr wlen s.linkQ then
        if addr.toNat < 4096 then (s.accept (.write addr wlen word)).loadTx (writeFrame addr word).toList false
        else (s.accept (.write addr wlen word)).enterResp (.plain .encodingOverflow 0)
      else (s.accept (.write addr wlen word)).enterResp (.plain .ok 0) := by
  have hw : (s.accept (.write addr wlen word)).wordQ = word := wordOfBus_busOfWord word
  rw [acceptAction_write rfl, hw]
  rfl

/-- The latches of an accepted ENCODE hold its operands. -/
theorem acceptAction_accept_encode (n : PortIdx) (s : State) (addr : Addr) (word : Word) :
    (s.accept (.encode addr word)).acceptAction n =
      if addr.toNat < 4096 then
        (s.accept (.encode addr word)).enterResp
          { status := .ok, count := 0, flag := false, frame := frameBits (writeFrame addr word) }
      else (s.accept (.encode addr word)).enterResp (.plain .encodingOverflow 0) := by
  have hw : (s.accept (.encode addr word)).wordQ = word := wordOfBus_busOfWord word
  rw [acceptAction_encode rfl, hw]
  rfl

theorem exec_open_follows {s : State} (o : Option PortIdx) (hw : (openOf o).wellFormed s.cfg = true) :
    ∃ t, exec (openOf o) s = .next t ∧ ((s.accept (openOf o)).acceptAction s.portCount).Follows t := by
  have ho : (s.accept (openOf o)).opQ = 0b001 := by rw [accept_open]; rfl
  rw [exec_open s o hw, acceptAction_open ho, openCommand, accept_selectPort]
  cases (s.accept (openOf o)).linkQ with
  | opened => exact ⟨_, rfl, .refl _⟩
  | closed =>
    cases selectPort s.portCount o.isSome (o.getD 0) with
    | error e => exact ⟨_, rfl, .refl _⟩
    | ok sel => exact openPort_follows sel _

/-- The transaction of a command that can be presented follows the edges from its acceptance on. -/
theorem exec_follows {i : Instr} {s : State} (hw : i.wellFormed s.cfg = true) :
    ∃ t, exec i s = .next t ∧ ((s.accept i).acceptAction s.portCount).Follows t := by
  cases i with
  | openNone => exact exec_open_follows none hw
  | openIdx idx => exact exec_open_follows (some idx) hw
  | close =>
    have he : exec .close s = _ := ifPresentable_of _ hw
    rw [he, acceptAction_close rfl, State.accept_linkQ]
    cases s.linkQ with
    | closed => exact ⟨_, rfl, .refl _⟩
    | opened => exact shutDown_follows _
  | write addr wlen word =>
    have he : exec (.write addr wlen word) s = _ := ifPresentable_of _ hw
    rw [he, acceptAction_accept_write, encodeFrame_eq]
    split_ifs
    · exact sendFrame_follows _ _
    · exact ⟨_, rfl, .refl _⟩
    · exact ⟨_, rfl, .refl _⟩
  | check addr wlen =>
    have he : exec (.check addr wlen) s = _ := ifPresentable_of _ hw
    rw [he, acceptAction_check rfl]
    exact ⟨_, rfl, .refl _⟩
  | encode addr word =>
    have he : exec (.encode addr word) s = _ := ifPresentable_of _ hw
    rw [he, acceptAction_accept_encode, encodeFrame_eq]
    split_ifs
    · exact ⟨_, rfl, .refl _⟩
    · exact ⟨_, rfl, .refl _⟩
  | reserved000 => rw [acceptAction_reserved (.inl rfl)]; exact ⟨_, rfl, .refl _⟩
  | reserved110 => rw [acceptAction_reserved (.inr (.inl rfl))]; exact ⟨_, rfl, .refl _⟩
  | reserved111 => rw [acceptAction_reserved (.inr (.inr rfl))]; exact ⟨_, rfl, .refl _⟩

/-- What every clock edge of a command in progress keeps, the edges of the command keep. -/
theorem State.Follows.keeps {P : State → Prop} {s t : State} (h : s.Follows t) (hs : P s)
    (hP : ∀ u, u.seq ≠ .resp → P u → P u.edge) : P t := by
  obtain ⟨n, rfl, h⟩ := h
  induction n with
  | zero => exact hs
  | succ n ih =>
    rw [edges_add n 1 s]
    exact hP _ (h n n.lt_succ_self).2.2.1 (ih fun m hm => h m (hm.trans n.lt_succ_self))

/-- A step is its edge, followed by the edges of the command where the edge accepts one. -/
theorem step_follows {s t : State} (h : step s = .next t) : s.edge.Follows t := by
  obtain ⟨ha, he⟩ | ⟨-, rfl⟩ := step_cases h
  · obtain ⟨u, hu, hf⟩ := exec_follows (fetched_wellFormed s)
    cases hu.symm.trans he
    rwa [edge_of_accepting ha]
  · exact .refl _

/-- Settles O42: every clock edge keeps the invariant, and a step is a sequence of clock edges. -/
theorem stepKeepsTheInvariant : Obligations.StepKeepsTheInvariant := by
  unfold Obligations.StepKeepsTheInvariant
  intro s t hs h
  exact (step_follows h).keeps (edge_inv hs) fun _ _ => edge_inv

end Sys2Proof.Machine
end

section
/-! PROOFS. The two records of the model (R36, R71): an edge appends to the hand-overs, and delivers a response where one is
taken. -/

namespace Sys2Proof.Machine

theorem acceptAction_trace (n : PortIdx) (t : State) : t.trace <+: (t.acceptAction n).trace := by
  unfold State.acceptAction
  repeat' split
  all_goals simp

@[simp] theorem acceptAction_delivered (n : PortIdx) (t : State) : (t.acceptAction n).delivered = t.delivered := by
  unfold State.acceptAction
  repeat' split
  all_goals rfl

theorem txEdge_trace (s : State) : s.trace <+: s.txEdge.trace := by
  unfold State.txEdge
  split_ifs <;> simp

@[simp] theorem txEdge_delivered (s : State) : s.txEdge.delivered = s.delivered := by
  unfold State.txEdge
  split_ifs <;> rfl

theorem edge_trace (s : State) : s.trace <+: s.edge.trace := by
  cases hr : s.pins.rst with
  | true => rw [edge_reset hr, State.resetEdge_trace]
  | false =>
    cases hq : s.seq with
    | idle =>
      rw [edge_idle hq hr]
      split_ifs
      · exact acceptAction_trace s.portCount (s.latch s.presented)
      · exact List.prefix_rfl
    | phyOpen =>
      rw [edge_phyOpen hq hr, State.phyOpenEdge]
      split_ifs <;> exact List.prefix_rfl
    | tx => exact edge_tx hq hr ▸ txEdge_trace s
    | phyClose =>
      rw [edge_phyClose hq hr, State.phyCloseEdge]
      split_ifs <;> exact List.prefix_rfl
    | resp =>
      rw [edge_resp hq hr, State.respEdge]
      split_ifs <;> exact List.prefix_rfl

@[simp] theorem phyOpenEdge_delivered (s : State) : s.phyOpenEdge.delivered = s.delivered := by
  unfold State.phyOpenEdge
  split_ifs <;> rfl

@[simp] theorem phyCloseEdge_delivered (s : State) : s.phyCloseEdge.delivered = s.delivered := by
  unfold State.phyCloseEdge
  split_ifs <;> rfl

@[simp] theorem respEdge_delivered (s : State) :
    s.respEdge.delivered = s.delivered ++ (if s.pins.respReady = true then [s.resp] else []) := by
  unfold State.respEdge
  split_ifs <;> simp

/-- A response is delivered at the edge that takes it, and at no other (R36, R202). -/
theorem edge_delivered (s : State) :
    s.edge.delivered =
      s.delivered ++ (if s.pins.rst = false ∧ s.seq = .resp ∧ s.pins.respReady = true then [s.resp] else []) := by
  cases hr : s.pins.rst with
  | true => simp [edge_reset hr]
  | false =>
    cases hq : s.seq with
    | idle => cases hv : s.pins.cmdValid <;> simp [edge_idle hq hr, hv, State.acceptEdge]
    | phyOpen => simp [edge_phyOpen hq hr]
    | tx => simp [edge_tx hq hr]
    | phyClose => simp [edge_phyClose hq hr]
    | resp => simp [edge_resp hq hr]

/-- The edges after the first of a step deliver nothing: no response is presented before the last of them. -/
theorem step_delivered {s t : State} (h : step s = .next t) : t.delivered = s.edge.delivered :=
  (step_follows h).keeps (P := fun u => u.delivered = s.edge.delivered) rfl fun u hq hu => by
    simp [edge_delivered u, hq, hu]

theorem step_trace {s t : State} (h : step s = .next t) : s.trace <+: t.trace :=
  (step_follows h).keeps (P := fun u => s.trace <+: u.trace) (edge_trace s) fun u _ hu => hu.trans (edge_trace u)

/-- Settles O28: every edge only appends, and of a step's edges only the first can take a response. -/
theorem stepOnlyAppends : Obligations.StepOnlyAppends := by
  unfold Obligations.StepOnlyAppends
  exact fun s t h => ⟨step_trace h, (step_delivered h).trans (edge_delivered s)⟩

end Sys2Proof.Machine
end

section
/-! PROOFS. The outputs (R35 to R43): what each shows of the registers, and the codes it shows them in (R21, R28). -/

namespace Sys2Proof.Machine

theorem State.txValid_iff (s : State) : s.txValid = true ↔ s.seq = .tx ∧ s.txIdx.toNat < s.txLen.toNat := by
  simp [State.txValid, BitVec.lt_def]

/-- The byte presented is the byte of `tx_buf` at `tx_idx` (R42). -/
theorem State.txByte_of_getElem? {s : State} {b : Byte} (h : s.txBuf[s.txIdx.toNat]? = some b) : s.txByte = b := by
  rw [State.txByte, List.getD, Vector.getElem?_toList, h, Option.getD_some]

theorem LinkState.bit_eq (l : LinkState) : l.bit = if l = .opened then 1 else 0 := by cases l <;> rfl

/-- Settles O53: each output reads the register or the state it is defined from. -/
theorem outputsShowTheRegisters : Obligations.OutputsShowTheRegisters := by
  unfold Obligations.OutputsShowTheRegisters
  intro s
  refine ⟨?_, ?_, rfl, rfl, rfl, rfl, LinkState.bit_eq _, ?_, rfl, ?_, s.txValid_iff, fun h => ?_, fun b h hb => ?_⟩
  · simp [State.outputs]
  · simp [State.outputs]
  · simp [State.outputs]
  · simp [State.outputs]
  · exact if_neg (by simpa [State.outputs] using h)
  · exact (if_pos h).trans (State.txByte_of_getElem? hb)

/-- Settles O54, by the two tables of codes. -/
theorem linkAndSequencerCodes : Obligations.LinkAndSequencerCodes := by
  unfold Obligations.LinkAndSequencerCodes
  refine ⟨⟨rfl, rfl⟩, ⟨rfl, rfl, rfl, rfl, rfl⟩, fun q => ?_⟩
  cases q <;> decide

/-- Settles O39: the outputs take the constants of the configuration, whatever the state. -/
theorem linkConstantsAreAlwaysDriven : Obligations.LinkConstantsAreAlwaysDriven := fun _ => ⟨rfl, rfl, rfl, rfl, rfl⟩

/-- Settles O35: the step of a reset edge leaves the registers of `State.reset`, and no output but `cmd_ready` reads a pin. -/
theorem outputsAfterReset : Obligations.OutputsAfterReset := by
  unfold Obligations.OutputsAfterReset
  intro s t hr h ht
  have hn : ¬ s.accepting = true := by simp [accepting_iff, hr]
  rw [step_of_not_accepting hn, edge_reset hr] at h
  cases h
  exact ⟨by rw [State.outputs, ht]; rfl, rfl, rfl, rfl, rfl, rfl, rfl, rfl, linkConstantsAreAlwaysDriven _⟩

/-- Settles O41: the state after reset is what its own reset edge leaves, on quiet pins. -/
theorem resetMeetsTheInvariant : Obligations.ResetMeetsTheInvariant := (resetEdge_inv State.reset).atEdges Pins.quiet []

/-- Settles O36: each sequencer state drives its own handshake output; TX drives `tx_valid` because a byte is left. -/
theorem exactlyOneHandshakeIsDriven : Obligations.ExactlyOneHandshakeIsDriven := by
  unfold Obligations.ExactlyOneHandshakeIsDriven
  intro s h hr
  have hv : s.txValid = (s.seq == .tx) := by
    cases hq : s.seq with
    | tx => exact txValid_of_inv h hq
    | _ => simp [State.txValid, hq]
  simp only [State.outputs, hv, hr]
  cases s.seq <;> rfl

end Sys2Proof.Machine
end

section
/-! PROOFS. Ignored inputs (R44): what an edge does with the levels at its pins. -/

namespace Sys2Proof.Machine

/-- The port count matters to the acceptance of an OPEN in Closed only (R39, R151). -/
theorem acceptAction_portCount {t : State} {n m : PortIdx} (h : t.opQ = 0b001 → t.linkQ = .closed → n = m) :
    t.acceptAction n = t.acceptAction m := by
  by_cases ho : t.opQ = 0b001
  · rw [acceptAction_open ho, acceptAction_open ho]
    cases hl : t.linkQ with
    | opened => rfl
    | closed => rw [h ho hl]
  · unfold State.acceptAction
    rcases op_cases t.opQ with h | h | h | h | h | h | h | h
    case inr.inl => exact absurd h ho
    all_goals rw [h]; rfl

/-- With other pins the same is presented, so the edge accepts the same command and takes the same action. -/
theorem acceptEdge_atEdges {s : State} {p : Pins} (hc : p.cmd.onWires s.cfg = s.presented)
    (hn : s.pins.cmd.op = 0b001 → s.linkQ = .closed → lowBits s.cfg.portW p.portCount = s.portCount) :
    (s.atEdges p s.later).acceptEdge.advance = s.acceptEdge.advance := by
  have hp : (s.atEdges p s.later).presented = s.presented := hc
  rw [State.acceptEdge, State.acceptEdge, acceptAction_advance, acceptAction_advance, hp]
  exact acceptAction_portCount hn

theorem phyOpenEdge_atEdges {s : State} {p : Pins} (hd : p.phyOpenDone = s.pins.phyOpenDone)
    (ho : s.pins.phyOpenDone = true → p.phyOpenOk = s.pins.phyOpenOk) :
    (s.atEdges p s.later).phyOpenEdge.advance = s.phyOpenEdge.advance := by
  simp only [State.phyOpenEdge, State.atEdges_pins, hd]
  split
  next h =>
    simp only [ho h]
    split <;> rfl
  next => rfl

/-- No byte is presented, or the PHY answers the presented one alike; a refusal hides `tx_ready` (R204). -/
theorem txEdge_atEdges {s : State} {p : Pins}
    (h : s.txValid = false ∨ (p.txErr = s.pins.txErr ∧ (s.pins.txErr = false → p.txReady = s.pins.txReady))) :
    (s.atEdges p s.later).txEdge.advance = s.txEdge.advance := by
  have hv : (s.atEdges p s.later).txValid = s.txValid := rfl
  simp only [State.txEdge, apply_ite State.advance]
  simp only [hv, State.atEdges_pins]
  rcases h with h | ⟨he, hr⟩
  · simp only [h]
    rfl
  · cases hE : s.pins.txErr with
    | false =>
      simp only [he, hE, hr hE]
      rfl
    | true =>
      simp only [he, hE, if_true]
      rfl

theorem phyCloseEdge_atEdges {s : State} {p : Pins} (hd : p.phyCloseDone = s.pins.phyCloseDone) :
    (s.atEdges p s.later).phyCloseEdge.advance = s.phyCloseEdge.advance := by
  simp only [State.phyCloseEdge, State.atEdges_pins, hd]
  split <;> rfl

theorem respEdge_atEdges {s : State} {p : Pins} (hd : p.respReady = s.pins.respReady) :
    (s.atEdges p s.later).respEdge.advance = s.respEdge.advance := by
  simp only [State.respEdge, State.atEdges_pins, hd]
  split <;> rfl

/-- Settles O37, by the kinds of edges that the statement names. -/
theorem ignoredInputsChangeNothing : Obligations.IgnoredInputsChangeNothing := by
  unfold Obligations.IgnoredInputsChangeNothing
  intro s p hrst h
  change (s.atEdges p s.later).edge = s.edge
  cases hr : s.pins.rst with
  | true =>
    rw [edge_reset hr, edge_reset (hrst.trans hr)]
    rfl
  | false =>
    have hr' : (s.atEdges p s.later).pins.rst = false := hrst.trans hr
    rcases h with h | ⟨hq, hv, hv'⟩ | ⟨hq, hv, hv', hc, hn⟩ | ⟨hq, hd, ho⟩ | ⟨hq, ht⟩ | ⟨hq, hd⟩ | ⟨hq, hd⟩
    · exact absurd h (by simp [hr])
    · rw [edge_idle hq hr, edge_idle (s := s.atEdges p s.later) hq hr', State.atEdges_pins, hv, hv']
      rfl
    · have hn' : s.pins.cmd.op = 0b001 → s.linkQ = .closed → lowBits s.cfg.portW p.portCount = s.portCount := by
        intro ho hl
        apply BitVec.eq_of_toNat_eq
        rw [State.portCount, lowBits_toNat, lowBits_toNat, hn ho hl]
      rw [edge_idle hq hr, edge_idle (s := s.atEdges p s.later) hq hr', State.atEdges_pins, hv, hv', if_pos rfl, if_pos rfl,
        acceptEdge_atEdges hc hn']
    · rw [edge_phyOpen hq hr, edge_phyOpen (s := s.atEdges p s.later) hq hr', phyOpenEdge_atEdges hd ho]
    · rw [edge_tx hq hr, edge_tx (s := s.atEdges p s.later) hq hr', txEdge_atEdges ht]
    · rw [edge_phyClose hq hr, edge_phyClose (s := s.atEdges p s.later) hq hr', phyCloseEdge_atEdges hd]
    · rw [edge_resp hq hr, edge_resp (s := s.atEdges p s.later) hq hr', respEdge_atEdges hd]

end Sys2Proof.Machine
end

section
/-! PROOFS. Who writes `link` (R21, R140): the link state at the end of each command. -/

namespace Sys2Proof.Machine

/-- What answers a next state was presentable (93 I15). -/
theorem wellFormed_of_exec {i : Instr} {s t : State} (h : exec i s = .next t) : i.wellFormed s.cfg = true := by
  cases i with
  | openIdx idx => exact (ifPresentable_next.mp h).1
  | write addr wlen word => exact (ifPresentable_next.mp h).1
  | check addr wlen => exact (ifPresentable_next.mp h).1
  | encode addr word => exact (ifPresentable_next.mp h).1
  | _ => rfl

/-- A command's link state: as before while it waits, and `l` where it has ended (R31, R201). -/
def State.LinkFrom (old new : LinkState) (t : State) : Prop := t.linkQ = if t.seq = .resp then new else old

theorem sendFrame_link {f : Frame} {s t : State} (h : sendFrame f s = .next t) : t.LinkFrom s.linkQ s.linkNext := by
  obtain ⟨k, p, l, he | ⟨-, he⟩ | ⟨-, he, -⟩⟩ := sendFrame_cases f s <;>
  · cases he.symm.trans h
    rfl

theorem sendHandshake_link {s t : State} (h : sendHandshake s = .next t) : t.LinkFrom s.linkQ .opened := by
  obtain ⟨k, p, l, he | ⟨-, he⟩ | ⟨-, he, -⟩⟩ := sendHandshake_cases s <;>
  · cases he.symm.trans h
    rfl

theorem closePhy_link {s t : State} (h : closePhy s = .next t) : t.LinkFrom s.linkQ s.linkNext := by
  obtain ⟨p, l, he | ⟨he, -⟩⟩ := closePhy_cases s <;>
  · cases he.symm.trans h
    rfl

theorem shutDown_link {s t : State} (h : shutDown s = .next t) : t.LinkFrom s.linkQ .closed := by
  obtain ⟨p, l, he | he | ⟨he, -⟩⟩ := shutDown_cases s
  · exact closePhy_link (he.symm.trans h)
  · exact closePhy_link (he.symm.trans h)
  · cases he.symm.trans h
    rfl

/-- An OPEN leaves `link` or makes it Open. -/
theorem openPort_link {sel : PortIdx} {s t : State} (h : openPort sel s = .next t) (hl : s.linkNext = s.linkQ) :
    t.linkQ = s.linkQ ∨ t.linkQ = .opened := by
  obtain ⟨p, l, he | ⟨he, -⟩ | he⟩ := openPort_cases sel s
  · cases he.symm.trans h
    exact .inl hl
  · cases he.symm.trans h
    exact .inl rfl
  · rw [sendHandshake_link (he.symm.trans h)]
    split
    · exact .inr rfl
    · exact .inl rfl

/-- Settles O45, by what `exec` of a presentable command can be: only the PHY open and the shutdown set `link_next`. -/
theorem onlyOpenAndCloseWriteLink : Obligations.OnlyOpenAndCloseWriteLink := by
  unfold Obligations.OnlyOpenAndCloseWriteLink
  intro i s t h
  cases exec_shape (wellFormed_of_exec h) with
  | immediate r him =>
    cases him.answer.symm.trans h
    exact ⟨fun hne => absurd rfl hne, fun hi _ => him.closed hi⟩
  | send addr wlen word hi hg h4 answer =>
    have hl := sendFrame_link (answer.symm.trans h)
    exact ⟨fun hne => absurd (hl.trans (ite_self _)) hne, fun hc => by rw [hi] at hc; cases hc⟩
  | opening o sel hi hl hs answer =>
    refine ⟨fun hne => .inl ⟨o, hi, hl, ?_⟩, fun hc => ?_⟩
    · exact (openPort_link (answer.symm.trans h) rfl).resolve_left hne
    · cases o <;> cases hi.symm.trans hc
  | closing hi hl answer =>
    have hlink := shutDown_link (answer.symm.trans h)
    refine ⟨fun hne => .inr ⟨hi, ?_⟩, fun _ hq => by rw [hlink, if_pos hq]⟩
    by_cases hq : t.seq = .resp
    · exact hlink.trans (if_pos hq)
    · exact absurd (hlink.trans (if_neg hq)) hne

end Sys2Proof.Machine
end

section
/-! PROOFS. What a command sees (R22, R24, R84, R103): two states alike in `link`, `link_next`, the edges and what has been handed
over since the command began stay alike through every part of a command, whatever else differs. -/

namespace Sys2Proof.Machine

/-- `s` and `t` agree on what a command sees, and the same has been handed over after `a` in `s` and after `b` in `t`. -/
structure State.Alike (a b : List PhyEvent) (s t : State) : Prop where
  link : s.linkQ = t.linkQ
  next : s.linkNext = t.linkNext
  edges : s.pins = t.pins ∧ s.later = t.later
  trace : ∃ es, s.trace = a ++ es ∧ t.trace = b ++ es

/-- Both are in TX as well, and a send stands alike in them. -/
structure State.AlikeTx (a b : List PhyEvent) (s t : State) : Prop where
  alike : s.Alike a b t
  tx : s.seq = .tx ∧ t.seq = .tx
  idx : s.txIdx = t.txIdx
  fail : s.txFail = t.txFail

/-- The next states that two answers give show the same. -/
def AnsweredAlike (a b : List PhyEvent) (r r' : Result) : Prop :=
  ∀ s t, r = .next s → r' = .next t → s.Alike a b t ∧ s.seq = t.seq ∧ (s.seq = .resp → s.resp = t.resp)

section
variable {a b : List PhyEvent} {s t : State}

/-! ## The operations -/

theorem accept_alike (i : Instr) (hl : s.linkQ = t.linkQ) (hd : s.later = t.later) :
    (s.accept i).Alike s.trace t.trace (t.accept i) := by
  refine ⟨hl, hl, ⟨?_, ?_⟩, [], by simp, by simp⟩ <;> simp [hd]

theorem alike_trace_append (h : ∃ es, s.trace = a ++ es ∧ t.trace = b ++ es) (e : PhyEvent) :
    ∃ es, s.trace ++ [e] = a ++ es ∧ t.trace ++ [e] = b ++ es := by
  obtain ⟨es, hs, ht⟩ := h
  exact ⟨es ++ [e], by rw [hs, List.append_assoc], by rw [ht, List.append_assoc]⟩

theorem State.Alike.atEdges (h : s.Alike a b t) (p : Pins) (l : List Pins) : (s.atEdges p l).Alike a b (t.atEdges p l) :=
  ⟨h.link, h.next, ⟨rfl, rfl⟩, h.trace⟩

theorem State.Alike.setLinkNext (h : s.Alike a b t) (l : LinkState) : (s.setLinkNext l).Alike a b (t.setLinkNext l) :=
  ⟨h.link, rfl, h.edges, h.trace⟩

theorem State.Alike.requestOpen (h : s.Alike a b t) (sel : PortIdx) : (s.requestOpen sel).Alike a b (t.requestOpen sel) :=
  ⟨h.link, h.next, h.edges, alike_trace_append h.trace _⟩

theorem State.Alike.requestClose (h : s.Alike a b t) : s.requestClose.Alike a b t.requestClose :=
  ⟨h.link, h.next, h.edges, alike_trace_append h.trace _⟩

theorem State.Alike.loadTx (h : s.Alike a b t) (bs : List Byte) (thenClose : Bool) :
    (s.loadTx bs thenClose).AlikeTx a b (t.loadTx bs thenClose) :=
  ⟨⟨h.link, h.next, h.edges, h.trace⟩, ⟨rfl, rfl⟩, rfl, rfl⟩

theorem State.AlikeTx.atEdges (h : s.AlikeTx a b t) (p : Pins) (l : List Pins) :
    (s.atEdges p l).AlikeTx a b (t.atEdges p l) :=
  ⟨h.alike.atEdges p l, h.tx, h.idx, h.fail⟩

theorem State.AlikeTx.byteAccepted (h : s.AlikeTx a b t) (c : Byte) : (s.byteAccepted c).AlikeTx a b (t.byteAccepted c) :=
  ⟨⟨h.alike.link, h.alike.next, h.alike.edges, alike_trace_append h.alike.trace _⟩, h.tx, congrArg (· + 1) h.idx, h.fail⟩

theorem State.AlikeTx.byteRefused (h : s.AlikeTx a b t) : s.byteRefused.AlikeTx a b t.byteRefused :=
  ⟨⟨h.alike.link, h.alike.next, h.alike.edges, h.alike.trace⟩, h.tx, h.idx, rfl⟩

/-! ## The answers -/

theorem State.Alike.respond (h : s.Alike a b t) (e : Status) (k : BitVec 4) (flag : Bool) (frame : BitVec 72) :
    AnsweredAlike a b (respond e k flag frame s) (respond e k flag frame t) := by
  rintro _ _ ⟨⟩ ⟨⟩
  exact ⟨⟨h.next, h.next, h.edges, h.trace⟩, rfl, fun _ => rfl⟩

theorem State.AlikeTx.raise (h : s.AlikeTx a b t) (e : Status) :
    AnsweredAlike a b (raise e s.txIdx s) (raise e t.txIdx t) :=
  h.idx ▸ h.alike.respond _ _ _ _

theorem State.Alike.wait (h : s.Alike a b t) (hq : s.seq = t.seq) (hr : t.seq ≠ .resp) :
    AnsweredAlike a b (.next s) (.next t) := by
  rintro _ _ ⟨⟩ ⟨⟩
  exact ⟨h, hq, fun h => absurd (hq.symm.trans h) hr⟩

/-! ## The parts of a command -/

theorem State.Alike.await (h : s.Alike a b t) (g : Pins → Bool) :
    ∃ x p l, s.await g = (x, s.atEdges p l) ∧ t.await g = (x, t.atEdges p l) := by
  obtain ⟨hp, hl⟩ := h.edges
  exact ⟨_, _, _, rfl, by rw [State.await, hp, hl]⟩

theorem sendBytes_alike (bs : List Byte) : ∀ {s t : State}, s.AlikeTx a b t →
    ∃ e s' t', sendBytes bs s = (e, s') ∧ sendBytes bs t = (e, t') ∧ s'.AlikeTx a b t' := by
  induction bs with
  | nil => exact fun h => ⟨.ok, _, _, rfl, rfl, h⟩
  | cons c bs ih =>
    intro s t h
    obtain ⟨x, p, l, hs, ht⟩ := h.alike.await Pins.byteAnswered
    rw [sendBytes_cons, sendBytes_cons, hs, ht]
    cases x with
    | none => exact ⟨.pending, _, _, rfl, rfl, h.atEdges p l⟩
    | some q =>
      cases he : q.txErr with
      | true => exact ⟨.failed, _, _, if_pos he, if_pos he, (h.atEdges p l).byteRefused⟩
      | false =>
        simp only [he, Bool.false_eq_true, if_false]
        exact ih ((h.atEdges p l).byteAccepted c)

theorem sendFrame_alike (h : s.Alike a b t) (f : Frame) : AnsweredAlike a b (sendFrame f s) (sendFrame f t) := by
  obtain ⟨e, s', t', hs, ht, h'⟩ := sendBytes_alike f.toList (h.loadTx f.toList false)
  rw [sendFrame, sendFrame, hs, ht]
  cases e with
  | ok => exact h'.alike.respond _ _ _ _
  | failed => exact h'.raise _
  | pending => exact h'.alike.wait (h'.tx.1.trans h'.tx.2.symm) (by simp [h'.tx])

theorem sendHandshake_alike (h : s.Alike a b t) : AnsweredAlike a b (sendHandshake s) (sendHandshake t) := by
  obtain ⟨e, s', t', hs, ht, h'⟩ := sendBytes_alike openHandshake ((h.setLinkNext .opened).loadTx openHandshake false)
  rw [sendHandshake, sendHandshake, hs, ht]
  cases e with
  | ok => exact h'.alike.respond _ _ _ _
  | failed => exact h'.raise _
  | pending => exact h'.alike.wait (h'.tx.1.trans h'.tx.2.symm) (by simp [h'.tx])

theorem openPort_alike (h : s.Alike a b t) (sel : PortIdx) : AnsweredAlike a b (openPort sel s) (openPort sel t) := by
  obtain ⟨x, p, l, hs, ht⟩ := (h.requestOpen sel).await Pins.phyOpenDone
  have h' := (h.requestOpen sel).atEdges p l
  rw [openPort, openPort, hs, ht]
  cases x with
  | none => exact h'.wait rfl (by simp)
  | some q =>
    cases ho : q.phyOpenOk with
    | true =>
      simp only [ho, if_true]
      exact sendHandshake_alike h'
    | false =>
      simp only [ho, Bool.false_eq_true, if_false]
      exact h'.respond _ _ _ _

theorem closePhy_alike (h : s.AlikeTx a b t) : AnsweredAlike a b (closePhy s) (closePhy t) := by
  obtain ⟨x, p, l, hs, ht⟩ := h.alike.requestClose.await Pins.phyCloseDone
  have h' := h.alike.requestClose.atEdges p l
  rw [closePhy, closePhy, hs, ht]
  cases x with
  | none => exact h'.wait rfl (by simp)
  | some q =>
    change AnsweredAlike a b (if s.txFail then raise .linkWriteFailed s.txIdx _ else respond .ok s.txIdx false 0 _)
      (if t.txFail then raise .linkWriteFailed t.txIdx _ else respond .ok t.txIdx false 0 _)
    rw [h.fail, h.idx]
    split <;> exact h'.respond _ _ _ _

theorem shutDown_alike (h : s.Alike a b t) : AnsweredAlike a b (shutDown s) (shutDown t) := by
  obtain ⟨e, s', t', hs, ht, h'⟩ := sendBytes_alike closeHandshake ((h.setLinkNext .closed).loadTx closeHandshake true)
  rw [shutDown, shutDown, hs, ht]
  cases e with
  | ok => exact closePhy_alike h'
  | failed => exact closePhy_alike h'
  | pending => exact h'.alike.wait (h'.tx.1.trans h'.tx.2.symm) (by simp [h'.tx])

theorem openCommand_alike (h : s.Alike a b t) {n m : PortIdx} (g : Bool) (idx : PortIdx)
    (hn : s.linkQ = .closed → n = m) : AnsweredAlike a b (openCommand n g idx s) (openCommand m g idx t) := by
  rw [openCommand, openCommand, ← h.link]
  cases hl : s.linkQ with
  | opened => exact h.respond _ _ _ _
  | closed =>
    rw [hn hl]
    cases selectPort m g idx with
    | error e => exact h.respond _ _ _ _
    | ok sel => exact openPort_alike h sel

/-- A command that can be presented to both cores answers them alike. -/
theorem exec_alike {i : Instr} (hw : i.wellFormed s.cfg = true) (hc : s.cfg = t.cfg) (hl : s.linkQ = t.linkQ)
    (hd : s.later = t.later) (hn : ∀ o, i = openOf o → s.linkQ = .closed → s.portCount = t.portCount) :
    AnsweredAlike s.trace t.trace (exec i s) (exec i t) := by
  have ha := accept_alike i hl hd
  have hw' : i.wellFormed t.cfg = true := hc ▸ hw
  have ho : ∀ o, i = openOf o → AnsweredAlike s.trace t.trace (exec i s) (exec i t) := by
    rintro o rfl
    rw [exec_open s o hw, exec_open t o hw']
    exact openCommand_alike ha _ _ (hn o rfl)
  cases i with
  | openNone => exact ho none rfl
  | openIdx idx => exact ho (some idx) rfl
  | close =>
    rw [exec, exec, execClose, execClose, ifPresentable_of _ hw, ifPresentable_of _ hw', hl]
    cases t.linkQ with
    | closed => exact ha.respond _ _ _ _
    | opened => exact shutDown_alike ha
  | write addr wlen word =>
    rw [exec, exec, execWrite, execWrite, ifPresentable_of _ hw, ifPresentable_of _ hw', hl, hc]
    split
    · cases encodeFrame addr word with
      | none => exact ha.respond _ _ _ _
      | some f => exact sendFrame_alike ha f
    · exact ha.respond _ _ _ _
  | check addr wlen =>
    rw [exec, exec, execCheck, execCheck, ifPresentable_of _ hw, ifPresentable_of _ hw', hl, hc]
    exact ha.respond _ _ _ _
  | encode addr word =>
    rw [exec, exec, execEncode, execEncode, ifPresentable_of _ hw, ifPresentable_of _ hw']
    cases encodeFrame addr word with
    | none => exact ha.respond _ _ _ _
    | some f => exact ha.respond _ _ _ _
  | _ => exact ha.respond _ _ _ _

end

/-- Settles O47: each part of a command keeps its two runs alike. -/
theorem commandsSeeOnlyTheLinkState : Obligations.CommandsSeeOnlyTheLinkState := by
  unfold Obligations.CommandsSeeOnlyTheLinkState
  intro i s t s' t' hc hl hd hn hs ht
  obtain ⟨h, hq, hr⟩ := exec_alike (wellFormed_of_exec hs) hc hl hd hn s' t' hs ht
  exact ⟨h.link, hq, h.edges.2, hr, h.trace⟩

end Sys2Proof.Machine
end

section
/-! PROOFS. What one command hands over (R36, R67, R89, R90, R172): the bytes of its frame that the PHY accepted, between its
requests, and the response that accounts for them. -/

namespace Sys2Proof.Machine

/-- The response of a command that asked something of the PHY accounts for the bytes `w` accepted of its frame `bs`: it counts
them, and each status says how far the command came. -/
structure Response.Accounts (bs w : List Byte) (r : Response) : Prop where
  count : r.count.toNat = w.length
  status : (r.status = .ok ∧ w = bs) ∨ r.status = .linkWriteFailed ∨ (r.status = .cannotOpenPort ∧ w = [])

/-- After `old`, a leading part of `bs` has been handed over, and a response in `t` accounts for it. -/
def State.HandsOver (old : List PhyEvent) (bs : List Byte) (t : State) : Prop :=
  ∃ es, t.trace = old ++ es ∧ wireOf es <+: bs ∧ (t.seq = .resp → t.resp.Accounts bs (wireOf es))

section
variable {old : List PhyEvent} {bs : List Byte} {s t : State}

/-! ## The responses -/

theorem accounts_ok (h : bs.length < 16) : (Response.plain .ok (BitVec.ofNat 4 bs.length)).Accounts bs bs :=
  ⟨Nat.mod_eq_of_lt h, .inl ⟨rfl, rfl⟩⟩

theorem accounts_linkWriteFailed {k : Nat} (hk : k ≤ bs.length) (h : k < 16) :
    (Response.plain .linkWriteFailed (BitVec.ofNat 4 k)).Accounts bs (bs.take k) :=
  ⟨by rw [List.length_take_of_le hk]; exact Nat.mod_eq_of_lt h, .inr (.inl rfl)⟩

/-! ## The bytes and the requests -/

/-- A send hands over bytes and nothing else (R204). -/
theorem handsOver_bytes {w : List Byte} (ht : t.trace = old ++ bytesOf w) (hw : w <+: bs)
    (hr : t.seq = .resp → t.resp.Accounts bs w) : t.HandsOver old bs :=
  ⟨bytesOf w, ht, by simpa using hw, by simpa using hr⟩

/-- A request for a port before the send is no byte (R89). -/
theorem State.HandsOver.of_openReq {sel : PortIdx} (h : t.HandsOver (old ++ [.openReq sel]) bs) : t.HandsOver old bs := by
  obtain ⟨es, ht, hw, hr⟩ := h
  exact ⟨.openReq sel :: es, by simpa using ht, hw, hr⟩

/-! ## The parts of a command -/

theorem sendFrame_handsOver {f : Frame} (h : sendFrame f s = .next t) : t.HandsOver s.trace f.toList := by
  have hl : f.toList.length = 9 := Vector.length_toList
  obtain ⟨k, p, l, he | ⟨hk, he⟩ | ⟨-, he, -⟩⟩ := sendFrame_cases f s <;> cases he.symm.trans h
  · exact handsOver_bytes rfl List.prefix_rfl fun _ => by simpa [hl] using accounts_ok (bs := f.toList) (by omega)
  · exact handsOver_bytes rfl (List.take_prefix k _) fun _ => accounts_linkWriteFailed (by omega) (by omega)
  · exact handsOver_bytes rfl (List.take_prefix k _) nofun

theorem sendHandshake_handsOver (h : sendHandshake s = .next t) : t.HandsOver s.trace openHandshake := by
  have hl : openHandshake.length = 8 := rfl
  obtain ⟨k, p, l, he | ⟨hk, he⟩ | ⟨-, he, -⟩⟩ := sendHandshake_cases s <;> cases he.symm.trans h
  · exact handsOver_bytes rfl List.prefix_rfl fun _ => accounts_ok (bs := openHandshake) (by decide)
  · exact handsOver_bytes rfl (List.take_prefix k _) fun _ => accounts_linkWriteFailed (by omega) (by omega)
  · exact handsOver_bytes rfl (List.take_prefix k _) nofun

/-- Where the PHY does not open, the request is all there is (R150). -/
theorem openPort_handsOver {sel : PortIdx} (h : openPort sel s = .next t) : t.HandsOver s.trace openHandshake := by
  obtain ⟨p, l, he | ⟨he, -⟩ | he⟩ := openPort_cases sel s
  · cases he.symm.trans h
    exact ⟨[.openReq sel], rfl, List.nil_prefix, fun _ => ⟨rfl, .inr (.inr ⟨rfl, rfl⟩)⟩⟩
  · cases he.symm.trans h
    exact ⟨[.openReq sel], rfl, List.nil_prefix, nofun⟩
  · exact (sendHandshake_handsOver (he.symm.trans h)).of_openReq

/-- The request to close comes after the bytes, and the registers of the send account for them (R155, R157). -/
theorem closePhy_handsOver {w : List Byte} (h : closePhy s = .next t) (hs : s.trace = old ++ bytesOf w) (hw : w <+: bs)
    (hr : (Response.plain (if s.txFail then .linkWriteFailed else .ok) s.txIdx).Accounts bs w) : t.HandsOver old bs := by
  have hc : s.requestClose.trace = old ++ (bytesOf w ++ [.closeReq]) := by simp [hs]
  have hb : wireOf (bytesOf w ++ [.closeReq]) = w := by rw [wireOf_append, wireOf_bytesOf]; exact List.append_nil w
  obtain ⟨p, l, he | ⟨he, -⟩⟩ := closePhy_cases s <;> cases he.symm.trans h
  · exact ⟨_, hc, hb.symm ▸ hw, fun _ => hb.symm ▸ hr⟩
  · exact ⟨_, hc, hb.symm ▸ hw, nofun⟩

theorem shutDown_handsOver (h : shutDown s = .next t) : t.HandsOver s.trace closeHandshake := by
  obtain ⟨p, l, he | he | ⟨he, -⟩⟩ := shutDown_cases s
  · exact closePhy_handsOver (w := closeHandshake) (he.symm.trans h) rfl List.prefix_rfl (accounts_ok (by decide))
  · exact closePhy_handsOver (w := []) (he.symm.trans h) (List.append_nil _).symm List.nil_prefix ⟨rfl, .inr (.inl rfl)⟩
  · cases he.symm.trans h
    exact handsOver_bytes (w := []) (List.append_nil _).symm List.nil_prefix nofun

/-- What `exec` hands over: nothing where the command ends at its acceptance, and otherwise a part of its own frame. -/
theorem exec_handsOver {i : Instr} (h : exec i s = .next t) :
    (∃ r, Immediate i s r ∧ t = (s.accept i).enterResp r) ∨ t.HandsOver s.trace (wholeSend i) := by
  cases exec_shape (wellFormed_of_exec h) with
  | immediate r him =>
    cases him.answer.symm.trans h
    exact .inl ⟨r, him, rfl⟩
  | send addr wlen word hi hg h4 answer => exact .inr (hi ▸ sendFrame_handsOver (s := s.accept i) (answer.symm.trans h))
  | opening o sel hi hl hs answer =>
    have ho : wholeSend i = openHandshake := by cases o <;> exact hi ▸ rfl
    exact .inr (ho ▸ openPort_handsOver (s := s.accept i) (answer.symm.trans h))
  | closing hi hl answer => exact .inr (hi ▸ shutDown_handsOver (s := s.accept i) (answer.symm.trans h))

end

/-- Settles O46: a command that ends at its acceptance hands over nothing and counts 0, and every other ends in a response that
accounts for its bytes. -/
theorem bytesHandedOverAreAPartOfOneFrame : Obligations.BytesHandedOverAreAPartOfOneFrame := by
  unfold Obligations.BytesHandedOverAreAPartOfOneFrame
  intro i s t h
  obtain ⟨r, him, rfl⟩ | ⟨es, ht, hw, hr⟩ := exec_handsOver h
  · exact ⟨[], (List.append_nil _).symm, List.nil_prefix,
      fun _ => ⟨congrArg BitVec.toNat him.count, fun _ => .inl rfl, fun _ _ => rfl, fun _ _ _ => rfl⟩⟩
  · refine ⟨es, ht, hw, fun hq => ?_⟩
    obtain ⟨hc, ⟨hs, hall⟩ | hs | ⟨hs, hnil⟩⟩ := hr hq
    · exact ⟨hc, fun _ => .inr hall, fun hok => absurd hs hok, fun hok => absurd hs hok⟩
    · exact ⟨hc, fun hok => by simp [hs] at hok, fun _ hf => absurd hs hf, fun _ hf => absurd hs hf⟩
    · exact ⟨hc, fun _ => .inl hnil, fun _ _ => hnil, fun _ _ hp => absurd hs hp⟩

end Sys2Proof.Machine
end

section
/-! PROOFS. The command word (R80, R82, R83): packing and unpacking are inverse to each other on the numbers of a CMDW's width, and
the op map reads back a command presented over any fields. -/

namespace Sys2Proof

/-! ## Packing -/

/-- A field of `n` bits with `m` bits above it is a number of `n + m` bits. -/
theorem packed_lt {n m a b : Nat} (ha : a < 2 ^ n) (hb : b < 2 ^ m) : a + 2 ^ n * b < 2 ^ (n + m) :=
  calc a + 2 ^ n * b < 2 ^ n + 2 ^ n * b := by omega
    _ = 2 ^ n * (b + 1) := by ring
    _ ≤ 2 ^ n * 2 ^ m := Nat.mul_le_mul_left _ hb
    _ = 2 ^ (n + m) := (pow_add 2 n m).symm

/-- Fields that fit their wires pack into the bits of a CMDW. -/
theorem packCmd_lt {cfg : Config} {c : Cmd} (h : c.Fits cfg) : packCmd cfg c < 2 ^ cmdwBits cfg := by
  have hg : c.idxGiven.toNat < 2 ^ 1 := Bool.toNat_lt c.idxGiven
  have hp := packed_lt c.op.isLt (packed_lt hg (packed_lt h.idx (packed_lt h.wlen (packed_lt h.addr c.word.isLt))))
  rwa [show 3 + (1 + (cfg.portW + (cfg.wlenW + (cfg.addrW + 40)))) = cmdwBits cfg by simp only [cmdwBits]; omega] at hp

/-- A number below the width of its field passes through the field. -/
theorem toNat_ofNat_mod {n w : Nat} (x : Nat) (h : n ≤ w) : (BitVec.ofNat w (x % 2 ^ n)).toNat = x % 2 ^ n :=
  Nat.mod_eq_of_lt ((Nat.mod_lt x (by positivity)).trans_le (Nat.pow_le_pow_right (by decide) h))

/-- Packing the fields of a number of a CMDW's width gives the number back. -/
theorem packCmd_fieldsOf {cfg : Config} {w : Nat} (hw : w < 2 ^ cmdwBits cfg) : packCmd cfg (fieldsOf cfg w) = w := by
  obtain ⟨⟨-, hA⟩, -, -, ⟨-, hL⟩, -, hP⟩ := cfg.legal
  have hidx := toNat_ofNat_mod (w / 2 ^ 4) hP
  have hwlen := toNat_ofNat_mod (w / 2 ^ (4 + cfg.portW)) hL
  have haddr := toNat_ofNat_mod (w / 2 ^ (4 + cfg.portW + cfg.wlenW)) hA
  have hword : (BitVec.ofNat 40 (w / 2 ^ (4 + cfg.portW + cfg.wlenW + cfg.addrW))).toNat =
      w / 2 ^ (4 + cfg.portW + cfg.wlenW + cfg.addrW) :=
    Nat.mod_eq_of_lt (Nat.div_lt_of_lt_mul (by rw [← pow_add]; exact hw))
  have hgiven : (w.testBit 3).toNat = w / 2 ^ 3 % 2 := Nat.toNat_testBit w 3
  simp only [packCmd, fieldsOf, hidx, hwlen, haddr, hword, hgiven, BitVec.toNat_ofNat]
  rw [pow_add 2 _ cfg.addrW, ← Nat.div_div_eq_div_mul, Nat.mod_add_div, pow_add 2 _ cfg.wlenW, ← Nat.div_div_eq_div_mul,
    Nat.mod_add_div, pow_add 2 4 cfg.portW, ← Nat.div_div_eq_div_mul, Nat.mod_add_div, show 2 ^ 4 = 2 ^ 3 * 2 from rfl,
    ← Nat.div_div_eq_div_mul, Nat.mod_add_div, Nat.mod_add_div]

/-! ## Decoding -/

/-- A command presented over any fields decodes (R82, R84). -/
@[simp] theorem decodeCmd_encodeOver (i : Instr) (c : Cmd) : decodeCmd (encodeOver i c) = i := by
  cases i with
  | openNone => exact Laws.Presents.openNone c
  | openIdx idx => exact Laws.Presents.openIdx idx c
  | close => exact Laws.Presents.close c
  | write addr wlen word => exact Laws.Presents.write addr wlen word c
  | check addr wlen => exact Laws.Presents.check addr wlen c
  | encode addr word => exact Laws.Presents.encode addr word c
  | reserved000 => exact Laws.Presents.reserved000 c
  | reserved110 => exact Laws.Presents.reserved110 c
  | reserved111 => exact Laws.Presents.reserved111 c

theorem Cmd.zero_fits (cfg : Config) : Cmd.zero.Fits cfg := ⟨Nat.two_pow_pos _, Nat.two_pow_pos _, Nat.two_pow_pos _⟩

theorem decode_packCmd {cfg : Config} {c : Cmd} (h : c.Fits cfg) : decode cfg (packCmd cfg c) = .ok (decodeCmd c) := by
  rw [decode, if_pos (packCmd_lt h), fieldsOf_packCmd h]

/-- Settles O20: the fields a well-formed command presents over zero fields fit, so their packing is unpacked and decoded. -/
theorem decodeReadsBackEveryEncoding : Obligations.DecodeReadsBackEveryEncoding := by
  unfold Obligations.DecodeReadsBackEveryEncoding
  intro cfg i hi
  rw [encode, decode_packCmd (encodeOver_fits (Cmd.zero_fits cfg) hi), decodeCmd_encodeOver]

/-- Settles O21: each of `decodeCmd` and setting a command's fields undoes the other. -/
theorem decodingLooksAtTheFieldsReadOnly : Obligations.DecodingLooksAtTheFieldsReadOnly := by
  unfold Obligations.DecodingLooksAtTheFieldsReadOnly
  intro c i
  constructor
  · rintro rfl
    exact encodeOver_decodeCmd c
  · intro h
    rw [← h, decodeCmd_encodeOver]

/-- Settles O22: below the width of a CMDW a number is the packing of fields that fit; from there on `decode` refuses. -/
theorem everyCommandWordDecodes : Obligations.EveryCommandWordDecodes := by
  unfold Obligations.EveryCommandWordDecodes
  refine fun cfg w => ⟨fun hw => ⟨packCmd_fieldsOf hw, decodeCmd (fieldsOf cfg w), ?_, ?_, rfl⟩, fun hw => ?_⟩
  · exact if_pos hw
  · exact decodeCmd_wellFormed (fieldsOf_fits cfg w)
  · exact if_neg (Nat.not_lt.mpr hw)

/-- Settles O23: each published number is below the width of a CMDW, and its fields are evaluated. -/
theorem publishedCommandWordsDecode : Obligations.PublishedCommandWordsDecode := by
  unfold Obligations.PublishedCommandWordsDecode
  simp only [Machine.decode_eq_ok_iff]
  decide

end Sys2Proof
end

section
/-! PROOFS. The texts of the assembler (R87): the fields of a text whose numbers fit, and the word a byte list presents. -/

namespace Sys2Proof.Machine

/-- The word a byte list presents, from the bytes `b` that stand where the list has one and are 0 beyond it. -/
theorem presentedWord_eq {bs : List Byte} {b : Nat → Byte} (hb : ∀ j, b j = if j < min bs.length 5 then bs.getD j 0 else 0) :
    presentedWord bs = #v[b 0, b 1, b 2, b 3, b 4] := by
  have hget : ∀ j < 5, b j = bs.getD j 0 := by
    intro j hj
    rw [hb j]
    split_ifs with hlt
    · rfl
    · exact (List.getD_eq_default _ _ (by omega)).symm
  rw [hget 0 (by decide), hget 1 (by decide), hget 2 (by decide), hget 3 (by decide), hget 4 (by decide)]
  rfl

/-- A text with an address and a byte list presents both where both fit their fields (R87). -/
theorem assembleBytes_ok {cfg : Config} {a : Nat} {bs : List Byte} (op : BitVec 3) (ha : a < 2 ^ cfg.addrW)
    (hl : bs.length < 2 ^ cfg.wlenW) :
    assembleBytes cfg op a bs = .ok { Cmd.zero with
      op := op, addr := BitVec.ofNat 64 a, wlen := BitVec.ofNat 16 bs.length, word := busOfWord (presentedWord bs) } := by
  rw [assembleBytes, if_neg (Nat.not_le.mpr ha), if_neg (Nat.not_le.mpr hl)]

theorem assembleBytes_address {cfg : Config} {a : Nat} (op : BitVec 3) (bs : List Byte) (ha : 2 ^ cfg.addrW ≤ a) :
    assembleBytes cfg op a bs = .error .address := if_pos ha

theorem assembleBytes_length {cfg : Config} {a : Nat} {bs : List Byte} (op : BitVec 3) (ha : a < 2 ^ cfg.addrW)
    (hl : 2 ^ cfg.wlenW ≤ bs.length) : assembleBytes cfg op a bs = .error .length := by
  rw [assembleBytes, if_neg (Nat.not_le.mpr ha), if_pos hl]

/-! ## The command of each form of text -/

theorem standsFor_openIdx {cfg : Config} {i : Nat} (hi : i < 2 ^ cfg.portW) :
    Text.StandsFor cfg (.openIdx i) { Cmd.zero with op := 0b001, idxGiven := true, idx := BitVec.ofNat 16 i }
      (.openIdx (BitVec.ofNat 16 i)) :=
  ⟨if_neg (Nat.not_le.mpr hi), decodeCmd_open rfl⟩

theorem standsFor_write {cfg : Config} {a : Nat} {bs : List Byte} (ha : a < 2 ^ cfg.addrW) (hl : bs.length < 2 ^ cfg.wlenW) :
    Text.StandsFor cfg (.write a bs)
      { Cmd.zero with
        op := 0b011, addr := BitVec.ofNat 64 a, wlen := BitVec.ofNat 16 bs.length, word := busOfWord (presentedWord bs) }
      (.write (BitVec.ofNat 64 a) (BitVec.ofNat 16 bs.length) (presentedWord bs)) :=
  ⟨assembleBytes_ok _ ha hl, by rw [decodeCmd_write rfl, wordOfBus_busOfWord]⟩

theorem standsFor_check {cfg : Config} {a : Nat} {bs : List Byte} (ha : a < 2 ^ cfg.addrW) (hl : bs.length < 2 ^ cfg.wlenW) :
    Text.StandsFor cfg (.check a bs)
      { Cmd.zero with
        op := 0b100, addr := BitVec.ofNat 64 a, wlen := BitVec.ofNat 16 bs.length, word := busOfWord (presentedWord bs) }
      (.check (BitVec.ofNat 64 a) (BitVec.ofNat 16 bs.length)) :=
  ⟨assembleBytes_ok _ ha hl, decodeCmd_check rfl⟩

theorem standsFor_encode {cfg : Config} {a : Nat} (b0 b1 b2 b3 b4 : Byte) (ha : a < 2 ^ cfg.addrW) :
    Text.StandsFor cfg (.encode a b0 b1 b2 b3 b4)
      { Cmd.zero with op := 0b101, addr := BitVec.ofNat 64 a, word := busOfWord #v[b0, b1, b2, b3, b4] }
      (.encode (BitVec.ofNat 64 a) #v[b0, b1, b2, b3, b4]) :=
  ⟨if_neg (Nat.not_le.mpr ha), by rw [decodeCmd_encode rfl, wordOfBus_busOfWord]⟩

/-- Every op assembles with all other fields 0, to the command its number selects. -/
theorem standsFor_op {cfg : Config} {v : Nat} (hv : v < 8) :
    Text.StandsFor cfg (.op v) { Cmd.zero with op := BitVec.ofNat 3 v } (decodeCmd { Cmd.zero with op := BitVec.ofNat 3 v }) :=
  ⟨if_neg (Nat.not_le.mpr hv), rfl⟩

/-- The bus value of five bytes, byte 4 first (R35). -/
theorem busOfWord_bytes (b0 b1 b2 b3 b4 : Byte) : busOfWord #v[b0, b1, b2, b3, b4] = b4 ++ b3 ++ b2 ++ b1 ++ b0 := rfl

/-- Settles O24: form by form, the numbers of a text that fit are presented in their fields and decode by the op map, and a number
that does not fit is refused. -/
theorem assembledTextsAreTheirCommands : Obligations.AssembledTextsAreTheirCommands := by
  unfold Obligations.AssembledTextsAreTheirCommands
  intro cfg
  refine ⟨⟨rfl, rfl⟩, fun i => standsFor_openIdx, fun i hi => if_pos hi, ⟨rfl, rfl⟩, ?_, ?_, ?_, ?_,
    fun a b0 b1 b2 b3 b4 ha => if_pos ha, ?_, fun v hv => if_pos hv⟩
  · intro a bs b ha hl hb
    have hw := standsFor_write ha hl
    have hc := standsFor_check ha hl
    rw [presentedWord_eq hb, busOfWord_bytes] at hw hc
    exact ⟨hw, hc⟩
  · exact fun a bs ha => ⟨assembleBytes_address _ bs ha, assembleBytes_address _ bs ha⟩
  · exact fun a bs ha hl => ⟨assembleBytes_length _ ha hl, assembleBytes_length _ ha hl⟩
  · exact fun a b0 b1 b2 b3 b4 => standsFor_encode b0 b1 b2 b3 b4
  · intro v i hvi
    simp only [List.mem_cons, Prod.mk.injEq, List.not_mem_nil, or_false] at hvi
    rcases hvi with ⟨rfl, rfl⟩ | ⟨rfl, rfl⟩ | ⟨rfl, rfl⟩ | ⟨rfl, rfl⟩ | ⟨rfl, rfl⟩ | ⟨rfl, rfl⟩ | ⟨rfl, rfl⟩ | ⟨rfl, rfl⟩ <;>
      exact standsFor_op (by decide)

end Sys2Proof.Machine
end

section
/-! PROOFS. The reserved ops (R86, 93 I12): what they answer, and that IllegalCommand is the response of no other command and of
no edge. -/

namespace Sys2Proof.Machine

/-! ## The response of a command -/

/-- R86: a reserved op is accepted, and answered with IllegalCommand. -/
theorem exec_reserved {i : Instr} (s : State) (h : isReserved i = true) :
    exec i s = .next ((s.accept i).enterResp (.plain .illegalCommand 0)) := by
  cases i with
  | reserved000 => rfl
  | reserved110 => rfl
  | reserved111 => rfl
  | _ => cases h

/-- Settles O1: the accepted state has the presented fields latched, and IllegalCommand is loaded into it. -/
theorem reservedOpsAnswerIllegalCommand : Obligations.ReservedOpsAnswerIllegalCommand := by
  unfold Obligations.ReservedOpsAnswerIllegalCommand
  intro s i op hi
  simp only [List.mem_cons, Prod.mk.injEq, List.not_mem_nil, or_false] at hi
  obtain ⟨rfl, rfl⟩ | ⟨rfl, rfl⟩ | ⟨rfl, rfl⟩ := hi <;> exact exec_reserved s rfl

/-- A response that accounts for bytes asked of the PHY is no IllegalCommand. -/
theorem Response.Accounts.status_ne_illegalCommand {bs w : List Byte} {r : Response} (h : r.Accounts bs w) :
    r.status ≠ .illegalCommand := by
  obtain ⟨hs, -⟩ | hs | ⟨hs, -⟩ := h.status <;> simp [hs]

theorem exec_illegalCommand_iff {i : Instr} {s t : State} (h : exec i s = .next t) (hq : t.seq = .resp) :
    t.resp.status = .illegalCommand ↔ isReserved i = true := by
  constructor
  · intro hs
    obtain ⟨r, him, rfl⟩ | ⟨es, -, -, hr⟩ := exec_handsOver h
    · exact him.illegal.mp hs
    · exact absurd hs (hr hq).status_ne_illegalCommand
  · intro hi
    cases (exec_reserved s hi).symm.trans h
    rfl

/-! ## The response of an edge -/

/-- An edge that accepts nothing presents the response that was presented before it, or one that is no IllegalCommand: in each
wait state a branch of the edge that enters RESP loads a status of its own (R203 to R205), and the others are not in RESP. -/
theorem edge_presents {s : State} (ha : ¬ s.accepting = true) (hq : s.edge.seq = .resp) :
    (s.seq = .resp ∧ s.edge.resp = s.resp) ∨ s.edge.resp.status ≠ .illegalCommand := by
  cases hr : s.pins.rst with
  | true =>
    rw [edge_reset hr] at hq
    cases hq
  | false =>
    cases hs : s.seq with
    | idle =>
      have hv : ¬ s.pins.cmdValid = true := fun hv => ha ((accepting_iff s).mpr ⟨hr, hs, hv⟩)
      rw [edge_idle hs hr, if_neg hv, State.advance_seq, hs] at hq
      cases hq
    | phyOpen =>
      right
      rw [edge_phyOpen hs hr, State.phyOpenEdge] at hq ⊢
      split_ifs at hq ⊢ <;> simp_all
    | tx =>
      right
      rw [edge_tx hs hr, State.txEdge] at hq ⊢
      split_ifs at hq ⊢ <;> simp_all
    | phyClose =>
      right
      rw [edge_phyClose hs hr, State.phyCloseEdge] at hq ⊢
      split_ifs at hq ⊢ <;> simp_all
    | resp =>
      left
      rw [edge_resp hs hr, State.respEdge]
      split_ifs <;> exact ⟨rfl, rfl⟩

/-! ## Runs without a program error -/

theorem edge_delivered_programErrorFree {s : State} (h : s.ProgramErrorFree) :
    ∀ r ∈ s.edge.delivered, r.status ≠ .illegalCommand := by
  intro r hr
  rw [edge_delivered, List.mem_append] at hr
  obtain hr | hr := hr
  · exact h.1 r hr
  · split_ifs at hr with hq
    · rw [List.mem_singleton.mp hr]
      exact h.2 hq.2.1
    · cases hr

theorem step_programErrorFree {s t : State} (h : s.ProgramErrorFree)
    (hi : s.accepting = true → isReserved s.fetched = false) (hs : step s = .next t) : t.ProgramErrorFree := by
  refine ⟨step_delivered hs ▸ edge_delivered_programErrorFree h, fun hq => ?_⟩
  obtain ⟨ha, he⟩ | ⟨ha, rfl⟩ := step_cases hs
  · simp [exec_illegalCommand_iff he hq, hi ha]
  · obtain ⟨hp, hr⟩ | hr := edge_presents ha hq
    · exact hr ▸ h.2 hp
    · exact hr

/-- Settles O49: a command is answered with IllegalCommand exactly if it is reserved, and an edge presents no new one. -/
theorem onlyReservedOpsAreProgramErrors : Obligations.OnlyReservedOpsAreProgramErrors := by
  unfold Obligations.OnlyReservedOpsAreProgramErrors
  exact ⟨fun _ _ _ => exec_illegalCommand_iff, fun _ _ => step_programErrorFree⟩

end Sys2Proof.Machine
end

section
/-! PROOFS. The frame encoder (R100 to R104): where `Encode` overflows, and which bits of its arguments a frame holds and gives
back. -/

namespace Sys2Proof.Machine

/-! ## Where it overflows (R101) -/

theorem encodeFrame_eq_some_iff {addr : Addr} {word : Word} {f : Frame} :
    encodeFrame addr word = some f ↔ addr.toNat < 4096 ∧ writeFrame addr word = f := by
  rw [encodeFrame_eq]
  split_ifs with h <;> simp [h]

theorem encodeFrame_eq_none_iff {addr : Addr} {word : Word} : encodeFrame addr word = none ↔ 4096 ≤ addr.toNat := by
  rw [encodeFrame_eq]
  split_ifs with h
  · simp [h]
  · simp [not_lt.mp h]

/-- The hardware's test of the address bits from 12 up. -/
theorem le_toNat_iff_upper_ne_zero (addr : Addr) : 4096 ≤ addr.toNat ↔ addr.extractLsb' 12 52 ≠ 0 := by
  have hu : (addr.extractLsb' 12 52).toNat = addr.toNat / 4096 := by
    rw [BitVec.extractLsb'_toNat, Nat.shiftRight_eq_div_pow]
    omega
  rw [ne_eq, ← BitVec.toNat_inj, hu, show (0 : BitVec 52).toNat = 0 from rfl]
  omega

/-- Settles O17: the two cases of `encodeFrame`, and the upper bits of the address as its quotient by 4096. -/
theorem encoderOverflowsFrom4096 : Obligations.EncoderOverflowsFrom4096 := by
  unfold Obligations.EncoderOverflowsFrom4096
  exact fun addr word => ⟨encodeFrame_eq_none_iff, le_toNat_iff_upper_ne_zero addr, encodeFrame_frame word⟩

/-! ## The low nibble of a byte -/

theorem and_0F_eq_low_nibble (b : Byte) : b &&& 0x0F#8 = (b.extractLsb' 0 4).setWidth 8 := by
  apply BitVec.eq_of_toNat_eq
  rw [BitVec.toNat_and, BitVec.toNat_setWidth, BitVec.extractLsb'_toNat, Nat.shiftRight_zero]
  exact (Nat.and_two_pow_sub_one_eq_mod _ 4).trans (by omega)

theorem low_nibble_eq_of_and_0F {b c : Byte} (h : b &&& 0x0F#8 = c &&& 0x0F#8) : b.extractLsb' 0 4 = c.extractLsb' 0 4 := by
  rw [and_0F_eq_low_nibble, and_0F_eq_low_nibble] at h
  simpa using congrArg (BitVec.setWidth 4) h

/-! ## What a frame holds (R88, R102) -/

/-- Of the word a frame holds the low nibble of byte 0 and the other four bytes, and nothing else. -/
theorem writeFrame_congr (addr : Addr) {v w : Word} (h0 : v[0].extractLsb' 0 4 = w[0].extractLsb' 0 4) (h1 : v[1] = w[1])
    (h2 : v[2] = w[2]) (h3 : v[3] = w[3]) (h4 : v[4] = w[4]) : writeFrame addr v = writeFrame addr w := by
  rw [writeFrame, writeFrame, h0, h1, h2, h3, h4]

theorem writeFrame_set_upper (addr : Addr) (word : Word) (upper : BitVec 4) :
    writeFrame addr (word.set 0 (upper ++ word[0].extractLsb' 0 4)) = writeFrame addr word :=
  writeFrame_congr addr (by rw [Vector.getElem_set_self]; exact BitVec.extractLsb'_append_eq_right) (by simp) (by simp)
    (by simp) (by simp)

theorem encodeFrame_set_upper (addr : Addr) (word : Word) (upper : BitVec 4) :
    encodeFrame addr (word.set 0 (upper ++ word[0].extractLsb' 0 4)) = encodeFrame addr word := by
  rw [encodeFrame_eq, encodeFrame_eq, writeFrame_set_upper]

/-! ## What a frame gives back (R104) -/

/-- `f` gives back the address `a` and the part of the word `w` that a frame holds, as R104 says. -/
structure GivesBack (f : Frame) (a : Addr) (w : Word) : Prop where
  addr : a = (f[2] ++ f[3].extractLsb' 4 4).setWidth 64
  nibble : w[0] &&& 0x0F#8 = (f[3].extractLsb' 0 4).setWidth 8
  byte1 : w[1] = f[4]
  byte2 : w[2] = f[5]
  byte3 : w[3] = f[6]
  byte4 : w[4] = f[7]

/-- An address below 4096 is its low twelve bits. -/
theorem eq_low_twelve_bits {a : Addr} (h : a.toNat < 4096) : a = (a.extractLsb' 0 12).setWidth 64 := by
  apply BitVec.eq_of_toNat_eq
  rw [BitVec.toNat_setWidth, BitVec.extractLsb'_toNat, Nat.shiftRight_zero]
  omega

theorem writeFrame_givesBack {a : Addr} (h : a.toNat < 4096) (w : Word) : GivesBack (writeFrame a w) a w where
  addr := by
    have hn : (writeFrame a w)[3].extractLsb' 4 4 = a.extractLsb' 0 4 := BitVec.extractLsb'_append_eq_left
    have hb : (writeFrame a w)[2] = a.extractLsb' 4 8 := rfl
    rw [hn, hb, BitVec.extractLsb'_append_extractLsb'_eq_extractLsb' (show 4 = 0 + 4 from rfl)]
    exact eq_low_twelve_bits h
  nibble := by
    have hn : (writeFrame a w)[3].extractLsb' 0 4 = w[0].extractLsb' 0 4 := BitVec.extractLsb'_append_eq_right
    rw [hn, and_0F_eq_low_nibble]
  byte1 := rfl
  byte2 := rfl
  byte3 := rfl
  byte4 := rfl

theorem encodeFrame_givesBack {a : Addr} {w : Word} {f : Frame} (h : encodeFrame a w = some f) : GivesBack f a w := by
  obtain ⟨ha, rfl⟩ := encodeFrame_eq_some_iff.mp h
  exact writeFrame_givesBack ha w

/-- Two inputs that one frame gives back agree in all that it holds. -/
theorem GivesBack.unique {f : Frame} {a b : Addr} {v w : Word} (hv : GivesBack f a v) (hw : GivesBack f b w) :
    a = b ∧ v[0] &&& 0x0F#8 = w[0] &&& 0x0F#8 ∧ v[1] = w[1] ∧ v[2] = w[2] ∧ v[3] = w[3] ∧ v[4] = w[4] :=
  ⟨hv.addr.trans hw.addr.symm, hv.nibble.trans hw.nibble.symm, hv.byte1.trans hw.byte1.symm, hv.byte2.trans hw.byte2.symm,
    hv.byte3.trans hw.byte3.symm, hv.byte4.trans hw.byte4.symm⟩

/-- Settles O19: a frame gives back what it holds, so it is the frame of one such input only. -/
theorem encoderInjectiveOnTheTriple : Obligations.EncoderInjectiveOnTheTriple := by
  unfold Obligations.EncoderInjectiveOnTheTriple
  refine ⟨fun a b v w ha hb => ⟨fun h => ?_, ?_⟩, fun a w f h => ?_⟩
  · rw [encodeFrame_frame w hb] at h
    exact (encodeFrame_givesBack h).unique (writeFrame_givesBack hb w)
  · rintro ⟨rfl, h0, h1, h2, h3, h4⟩
    rw [encodeFrame_eq, encodeFrame_eq, writeFrame_congr a (low_nibble_eq_of_and_0F h0) h1 h2 h3 h4]
  · obtain ⟨haddr, hnibble, h1, h2, h3, h4⟩ := encodeFrame_givesBack h
    exact ⟨haddr, hnibble, h1, h2, h3, h4⟩

end Sys2Proof.Machine
end

section
/-! PROOFS. What ENCODE answers (R105), and that the operand latch `word_q` reaches nothing that ENCODE or WRITE does after its
acceptance (R102, R103). -/

namespace Sys2Proof.Machine

/-! ## ENCODE (R105) -/

/-- The response to an ENCODE. -/
def encodeResponse (addr : Addr) (word : Word) : Response :=
  if addr.toNat < 4096 then { status := .ok, count := 0, flag := false, frame := frameBits (writeFrame addr word) }
  else .plain .encodingOverflow 0

/-- An ENCODE that can be presented ends at its acceptance edge. -/
theorem exec_encode {s : State} {addr : Addr} (word : Word) (h : (Instr.encode addr word).wellFormed s.cfg = true) :
    exec (.encode addr word) s = .next ((s.accept (.encode addr word)).enterResp (encodeResponse addr word)) := by
  rw [exec, execEncode, ifPresentable_of _ h, encodeFrame_eq, encodeResponse]
  split_ifs <;> rfl

/-- The latches of an accepted ENCODE. -/
theorem accept_encode (addr : Addr) (word : Word) (s : State) :
    s.accept (.encode addr word) =
      s.acceptedAs 0b101 s.presented.idxGiven s.presented.idx s.presented.wlen addr word := by
  rw [accept_eq]
  simp only [encodeOver, wordOfBus_busOfWord]

/-- Settles O3: the response of an ENCODE, and the state of its acceptance written out. -/
theorem encodeAnswersTheFrameOrOverflow : Obligations.EncodeAnswersTheFrameOrOverflow := by
  unfold Obligations.EncodeAnswersTheFrameOrOverflow
  intro s addr word h
  rw [exec_encode word (decide_eq_true h), accept_encode]
  rfl

/-! ## The latch of the word (R102) -/

/-- `s` with another word in the operand latch. -/
def State.withWordQ (w : Word) (s : State) : State := { s with wordQ := w }

/-- Accepting an ENCODE of another word differs in the latch only. -/
theorem accept_encode_withWordQ (addr : Addr) (word other : Word) (s : State) :
    s.accept (.encode addr other) = (s.accept (.encode addr word)).withWordQ other := by
  rw [accept_encode, accept_encode]
  rfl

/-- Accepting a WRITE of another word differs in the latch only. -/
theorem accept_write_withWordQ (addr : Addr) (wlen : WLen) (word other : Word) (s : State) :
    s.accept (.write addr wlen other) = (s.accept (.write addr wlen word)).withWordQ other := by
  rw [accept_eq, accept_eq]
  simp only [encodeOver, wordOfBus_busOfWord]
  rfl

/-- A send does not look at the latch. -/
theorem sendBytes_withWordQ (w : Word) (bs : List Byte) :
    ∀ s : State, sendBytes bs (s.withWordQ w) = ((sendBytes bs s).1, (sendBytes bs s).2.withWordQ w) := by
  induction bs with
  | nil => exact fun s => rfl
  | cons b bs ih =>
    intro s
    have ha : (s.withWordQ w).await Pins.byteAnswered =
      ((s.await Pins.byteAnswered).1, (s.await Pins.byteAnswered).2.withWordQ w) := rfl
    rw [sendBytes_cons, sendBytes_cons, ha]
    obtain ⟨_ | p, t⟩ := s.await Pins.byteAnswered
    · rfl
    · cases hp : p.txErr with
      | true => simp only [hp, if_true]; rfl
      | false => simp only [hp, Bool.false_eq_true, if_false]; exact ih (t.byteAccepted b)

theorem sendFrame_withWordQ (w : Word) {f : Frame} {s t : State} (h : sendFrame f s = .next t) :
    sendFrame f (s.withWordQ w) = .next (t.withWordQ w) := by
  have hs : sendBytes f.toList ((s.withWordQ w).loadTx f.toList false) = _ :=
    sendBytes_withWordQ w f.toList (s.loadTx f.toList false)
  rw [sendFrame] at h ⊢
  rw [hs]
  generalize sendBytes f.toList (s.loadTx f.toList false) = r at h ⊢
  obtain ⟨e, u⟩ := r
  cases e <;> cases h <;> rfl

/-! ## Two words with one frame (R102) -/

theorem exec_encode_withWordQ {s t : State} {addr : Addr} {word other : Word}
    (hf : writeFrame addr other = writeFrame addr word) (h : exec (.encode addr word) s = .next t) :
    exec (.encode addr other) s = .next (t.withWordQ other) := by
  have hw := wellFormed_of_exec h
  rw [exec_encode word hw] at h
  rw [exec_encode other hw, encodeResponse, hf, accept_encode_withWordQ addr word]
  cases h
  rfl

theorem exec_write_withWordQ {s t : State} {addr : Addr} {wlen : WLen} {word other : Word}
    (hf : encodeFrame addr other = encodeFrame addr word) (h : exec (.write addr wlen word) s = .next t) :
    exec (.write addr wlen other) s = .next (t.withWordQ other) := by
  obtain ⟨hw, h⟩ := ifPresentable_next.mp h
  refine ifPresentable_next.mpr ⟨hw, ?_⟩
  rw [hf, accept_write_withWordQ addr wlen word]
  split_ifs at h ⊢ with hg
  · cases he : encodeFrame addr word with
    | none => rw [he] at h; cases h; rfl
    | some f => rw [he] at h; exact sendFrame_withWordQ other h
  · cases h; rfl

/-- Settles O18: the frame is the same, so what follows the acceptance is, and no output shows the latch. -/
theorem encoderDiscardsTheUpperNibble : Obligations.EncoderDiscardsTheUpperNibble := by
  unfold Obligations.EncoderDiscardsTheUpperNibble
  rintro addr word _ upper rfl
  exact ⟨encodeFrame_set_upper addr word upper, fun s t => exec_encode_withWordQ (writeFrame_set_upper addr word upper),
    fun s t wlen => exec_write_withWordQ (encodeFrame_set_upper addr word upper), fun t => rfl⟩

end Sys2Proof.Machine
end

section
/-! PROOFS. The Write Guard (R121, R130 to R134): what CHECK and WRITE answer, case by case of the guard, the encoder and the
PHY. -/

namespace Sys2Proof.Machine

/-! ## CHECK (R130) -/

/-- The latches of an accepted CHECK. -/
theorem accept_check (addr : Addr) (wlen : WLen) (s : State) :
    s.accept (.check addr wlen) =
      s.acceptedAs 0b100 s.presented.idxGiven s.presented.idx wlen addr s.presentedWord := rfl

theorem guard_eq_decide (cfg : Config) (addr : Addr) (wlen : WLen) (link : LinkState) :
    guard cfg addr wlen link =
      decide (cfg.winBottom ≤ addr.toNat ∧ addr.toNat < cfg.winTop ∧ wlen.toNat = cfg.wordLen ∧ link = .opened) := by
  rw [Bool.eq_iff_iff, guard_iff, decide_eq_true_iff]

/-- Settles O2: CHECK ends at its acceptance edge, and its flag is the guard's conjunction. -/
theorem checkAnswersTheGuard : Obligations.CheckAnswersTheGuard := by
  unfold Obligations.CheckAnswersTheGuard
  intro s addr wlen ha hl
  have hw : (Instr.check addr wlen).wellFormed s.cfg = true := by simp [Instr.wellFormed, ha, hl]
  rw [← guard_eq_decide, ← accept_check, exec, execCheck, ifPresentable_of _ hw]
  rfl

/-! ## The cases of a WRITE (R131 to R133) -/

/-- The latches of an accepted WRITE. -/
theorem accept_write (addr : Addr) (wlen : WLen) (word : Word) (s : State) :
    s.accept (.write addr wlen word) =
      s.acceptedAs 0b011 s.presented.idxGiven s.presented.idx wlen addr word := by
  rw [accept_eq]
  simp only [encodeOver, wordOfBus_busOfWord]

section
variable {s : State} {addr : Addr} {wlen : WLen} {word : Word} (hw : (Instr.write addr wlen word).wellFormed s.cfg = true)
include hw

theorem exec_write_of_guard_false (hg : guard s.cfg addr wlen s.linkQ = false) :
    exec (.write addr wlen word) s = .next ((s.accept (.write addr wlen word)).enterResp (.plain .ok 0)) := by
  rw [exec, execWrite, ifPresentable_of _ hw, hg]
  rfl

theorem exec_write_of_overflow (hg : guard s.cfg addr wlen s.linkQ = true) (h4 : 4096 ≤ addr.toNat) :
    exec (.write addr wlen word) s = .next ((s.accept (.write addr wlen word)).enterResp (.plain .encodingOverflow 0)) := by
  rw [exec, execWrite, ifPresentable_of _ hw, if_pos hg, encodeFrame_overflow word h4]
  rfl

theorem exec_write_of_encodable (hg : guard s.cfg addr wlen s.linkQ = true) (h4 : addr.toNat < 4096) :
    exec (.write addr wlen word) s = sendFrame (writeFrame addr word) (s.accept (.write addr wlen word)) := by
  rw [exec, execWrite, ifPresentable_of _ hw, if_pos hg, encodeFrame_frame word h4]

end

/-- Settles O4: a false guard ends the command at its acceptance edge. -/
theorem writeSoftRejection : Obligations.WriteSoftRejection := by
  unfold Obligations.WriteSoftRejection
  intro s addr wlen word ha hl hn
  have hw : (Instr.write addr wlen word).wellFormed s.cfg = true := by simp [Instr.wellFormed, ha, hl]
  have hg : guard s.cfg addr wlen s.linkQ = false := by rw [guard_eq_decide]; exact decide_eq_false hn
  rw [exec_write_of_guard_false hw hg, accept_write]
  rfl

/-- Settles O5: the guard is true, and the encoder overflows before a byte is loaded. -/
theorem writeOverflowInsideTheWindow : Obligations.WriteOverflowInsideTheWindow := by
  unfold Obligations.WriteOverflowInsideTheWindow
  intro s addr wlen word hb ht hl ho h4
  rw [exec_write_of_overflow (write_wellFormed ht hl) (guard_of hb ht hl ho) h4, accept_write]
  rfl

/-! ## The send of a WRITE (R131, R67) -/

/-- A PHY that accepts nine bytes has the frame, and the count says so. -/
theorem sendFrame_accepted (f : Frame) {s : State} {as : List Answer} {rest : List Pins} (ha : AllAccept as)
    (hn : as.length = 9) (hs : s.Sees (answerEdges as ++ rest)) :
    sendFrame f s = .next ((((s.loadTx f.toList false).sent f.toList).atEdges (rest.headD Pins.quiet) rest.tail).enterResp
      (.plain .ok 9)) := by
  have hl : as.length = f.toList.length := by rw [hn, Vector.length_toList]
  rw [sendFrame, sendBytes_accepted f.toList as rest (s.loadTx f.toList false) hl ha ⟨hs.pins, hs.later⟩]
  rfl

/-- A PHY that refuses a byte has the bytes before it, and the count is their number. -/
theorem sendFrame_refused (f : Frame) {s : State} {as : List Answer} {r : Answer} {rest : List Pins} (ha : AllAccept as)
    (hn : as.length ≤ 8) (hr : r.Is Pins.TxWait Pins.TxRefuse) (hs : s.Sees (answerEdges as ++ r.edges ++ rest)) :
    sendFrame f s = .next (((((s.loadTx f.toList false).sent (f.toList.take as.length)).byteRefused).atEdges
      (rest.headD Pins.quiet) rest.tail).enterResp (.plain .linkWriteFailed (BitVec.ofNat 4 as.length))) := by
  have hl : as.length < f.toList.length := by rw [Vector.length_toList]; omega
  have hi := sent_loadTx_txIdx f.toList (f.toList.take as.length) false s
  rw [List.length_take_of_le hl.le] at hi
  rw [sendFrame, sendBytes_refused f.toList as r rest (s.loadTx f.toList false) hl ha hr ⟨hs.pins, hs.later⟩, ← hi]
  rfl

/-- The registers of a send with `bs` handed over are those of the statements. -/
theorem sent_loadTx_frame (f : Frame) (bs : List Byte) (s : State) :
    (s.loadTx f.toList false).sent bs =
      { s with
        txBuf := f, txLen := 9, txIdx := BitVec.ofNat 4 bs.length, txFail := false, afterTxQ := false, seq := .tx
        trace := s.trace ++ bytesOf bs } := by
  simp [State.sent, State.loadTx, loadBytes_frame]

/-- Settles O6: the guard is true, the address encodes, and the PHY takes the whole frame. -/
theorem writeSendsTheFrame : Obligations.WriteSendsTheFrame := by
  unfold Obligations.WriteSendsTheFrame
  intro s addr wlen word as rest hb ht hl ho h4 ha hn hs
  rw [exec_write_of_encodable (write_wellFormed ht hl) (guard_of hb ht hl ho) h4,
    sendFrame_accepted _ ha hn (hs ▸ accept_sees _ s), sent_loadTx_frame, Vector.length_toList, accept_write]
  rfl

/-- Settles O7: the guard is true, the address encodes, and the send stops at the refused byte. -/
theorem writeReportsTheRefusedByte : Obligations.WriteReportsTheRefusedByte := by
  unfold Obligations.WriteReportsTheRefusedByte
  intro s addr wlen word as refusal rest hb ht hl ho h4 ha hn hr hs
  have hk : ((writeFrame addr word).toList.take as.length).length = as.length :=
    List.length_take_of_le (by rw [Vector.length_toList]; omega)
  rw [exec_write_of_encodable (write_wellFormed ht hl) (guard_of hb ht hl ho) h4,
    sendFrame_refused _ ha hn hr (hs ▸ accept_sees _ s), sent_loadTx_frame, hk, accept_write]
  rfl

/-! ## What the response tells (R134) -/

/-- The two ends of a send that reach a response. -/
theorem sendFrame_response {f : Frame} {s t : State} (h : sendFrame f s = .next t) (hq : t.seq = .resp) :
    (t.resp = .plain .ok 9 ∧ t.trace = s.trace ++ bytesOf f.toList) ∨
    ∃ k ≤ 8, t.resp = .plain .linkWriteFailed (BitVec.ofNat 4 k) ∧ t.trace = s.trace ++ bytesOf (f.toList.take k) := by
  obtain ⟨k, p, l, he | ⟨hk, he⟩ | ⟨-, he, -⟩⟩ := sendFrame_cases f s <;> cases he.symm.trans h
  · exact .inl ⟨rfl, rfl⟩
  · exact .inr ⟨k, by omega, rfl, rfl⟩
  · cases hq

/-- Settles O8: by the guard, the address and the end of the send. -/
theorem writeResponseTellsWhatHappened : Obligations.WriteResponseTellsWhatHappened := by
  unfold Obligations.WriteResponseTellsWhatHappened
  intro s t addr wlen word h hq
  have hw := wellFormed_of_exec h
  cases hg : guard s.cfg addr wlen s.linkQ with
  | false =>
    cases (exec_write_of_guard_false hw hg).symm.trans h
    exact .inr (.inl ⟨rfl, rfl, rfl, rfl⟩)
  | true =>
    rcases le_or_gt 4096 addr.toNat with h4 | h4
    · cases (exec_write_of_overflow hw hg h4).symm.trans h
      exact .inr (.inr (.inl ⟨rfl, rfl, rfl, h4⟩))
    · obtain ⟨hr, ht⟩ | ⟨k, hk, hr, ht⟩ := sendFrame_response ((exec_write_of_encodable hw hg h4).symm.trans h) hq
      · exact .inl ⟨congrArg Response.status hr, congrArg Response.count hr, ht, rfl⟩
      · have hc : t.resp.count.toNat = k := by
          rw [hr]
          exact Nat.mod_eq_of_lt (by omega)
        refine .inr (.inr (.inr ⟨congrArg Response.status hr, ?_, hc.symm ▸ ht⟩))
        rw [BitVec.le_def, hc]
        exact hk

end Sys2Proof.Machine
end

section
/-! PROOFS. The Link Lifecycle (R142 to R157): what OPEN and CLOSE answer, case by case of the link, the selection and the PHY. -/

namespace Sys2Proof.Machine

/-! ## The cases of an OPEN (R143, R150, R151) -/

theorem State.portCount_toNat (s : State) : s.portCount.toNat = s.pins.portCount.toNat % 2 ^ s.cfg.portW := lowBits_toNat _ _

/-- An OPEN can be presented where its index, if it has one, fits. -/
theorem openOf_wellFormed {cfg : Config} {o : Option PortIdx} (h : ∀ idx, o = some idx → idx.toNat < 2 ^ cfg.portW) :
    (openOf o).wellFormed cfg = true := by
  cases o with
  | none => rfl
  | some idx => exact decide_eq_true (h idx rfl)

/-- An invalid selection gives the status of its rule (R143, R144). -/
theorem selectPort_invalid {n : PortIdx} {o : Option PortIdx} {e : Status}
    (h : (n.toNat = 0 ∧ e = .noPortsPresent) ∨ (1 < n.toNat ∧ o = none ∧ e = .invalidPortSelectionAmbiguous) ∨
      (0 < n.toNat ∧ (∃ idx, o = some idx ∧ n.toNat ≤ idx.toNat) ∧ e = .invalidPortSelectionRange)) :
    selectPort n o.isSome (o.getD 0) = .error e := by
  have hz : n = 0 ↔ n.toNat = 0 := BitVec.toNat_inj.symm
  rcases h with ⟨h0, rfl⟩ | ⟨h1, rfl, rfl⟩ | ⟨h0, ⟨idx, rfl, hi⟩, rfl⟩
  · exact if_pos (hz.mpr h0)
  · exact (if_neg (mt hz.mp (by omega))).trans (if_pos ⟨rfl, h1⟩)
  · exact (if_neg (mt hz.mp (by omega))).trans ((if_neg (by simp)).trans (if_pos ⟨rfl, Nat.not_lt.mpr hi⟩))

section
variable {s : State} {o : Option PortIdx} (hw : (openOf o).wellFormed s.cfg = true)
include hw

theorem exec_open_of_opened (hl : s.linkQ = .opened) :
    exec (openOf o) s = .next ((s.accept (openOf o)).enterResp (.plain .badLinkState 0)) := by
  rw [exec_open s o hw, openCommand, State.accept_linkQ, hl]
  rfl

theorem exec_open_of_invalid {e : Status} (hl : s.linkQ = .closed)
    (hs : selectPort s.portCount o.isSome (o.getD 0) = .error e) :
    exec (openOf o) s = .next ((s.accept (openOf o)).enterResp (.plain e 0)) := by
  rw [exec_open s o hw, openCommand, State.accept_linkQ, hl, hs]
  rfl

theorem exec_open_of_selected {sel : PortIdx} (hl : s.linkQ = .closed)
    (hs : selectPort s.portCount o.isSome (o.getD 0) = .ok sel) :
    exec (openOf o) s = openPort sel (s.accept (openOf o)) := by
  rw [exec_open s o hw, openCommand, State.accept_linkQ, hl, hs]

end

/-- Settles O12: an invalid selection ends the command at its acceptance edge. -/
theorem openInvalidSelections : Obligations.OpenInvalidSelections := by
  unfold Obligations.OpenInvalidSelections
  rintro s o n e hl rfl hf h
  rw [← s.portCount_toNat] at h
  rw [exec_open_of_invalid (openOf_wellFormed hf) hl (selectPort_invalid h), accept_open]
  rfl

/-- Settles O13: in Open the command ends at its acceptance edge, before a port is selected. -/
theorem openWhileOpenIsBadLinkState : Obligations.OpenWhileOpenIsBadLinkState := by
  unfold Obligations.OpenWhileOpenIsBadLinkState
  intro s o hl hf
  rw [exec_open_of_opened (openOf_wellFormed hf) hl, accept_open]
  rfl

/-! ## The open attempt and the handshake (R150, R152) -/

/-- What follows the PHY's answer to the open request. -/
theorem openPort_answered (sel : PortIdx) {ok : Bool} {s : State} {a : Answer} {rest : List Pins}
    (ha : a.Is Pins.OpenWait (Pins.OpenAnswer ok)) (hs : s.Sees (a.edges ++ rest)) :
    openPort sel s =
      if ok then sendHandshake ((s.requestOpen sel).atEdges (rest.headD Pins.quiet) rest.tail)
      else .next (((s.requestOpen sel).atEdges (rest.headD Pins.quiet) rest.tail).enterResp (.plain .cannotOpenPort 0)) := by
  obtain ⟨hw, hr, hd, rfl⟩ := ha
  rw [openPort, await_answer (s := s.requestOpen sel) ⟨hw, hr, hd⟩ ⟨hs.pins, hs.later⟩]
  rfl

/-- A PHY that accepts eight bytes has the handshake. -/
theorem sendHandshake_accepted {s : State} {as : List Answer} {rest : List Pins} (ha : AllAccept as) (hn : as.length = 8)
    (hs : s.Sees (answerEdges as ++ rest)) :
    sendHandshake s = .next (((((s.setLinkNext .opened).loadTx openHandshake false).sent openHandshake).atEdges
      (rest.headD Pins.quiet) rest.tail).enterResp (.plain .ok 8)) := by
  rw [sendHandshake, sendBytes_accepted openHandshake as rest ((s.setLinkNext .opened).loadTx openHandshake false) hn ha
    ⟨hs.pins, hs.later⟩]
  rfl

/-- A PHY that refuses a byte has the bytes before it, and the count is their number. -/
theorem sendHandshake_refused {s : State} {as : List Answer} {r : Answer} {rest : List Pins} (ha : AllAccept as)
    (hn : as.length ≤ 7) (hr : r.Is Pins.TxWait Pins.TxRefuse) (hs : s.Sees (answerEdges as ++ r.edges ++ rest)) :
    sendHandshake s = .next ((((((s.setLinkNext .opened).loadTx openHandshake false).sent
      (List.replicate as.length 0xFF)).byteRefused).atEdges (rest.headD Pins.quiet) rest.tail).enterResp
      (.plain .linkWriteFailed (BitVec.ofNat 4 as.length))) := by
  have hl : as.length < openHandshake.length := Nat.lt_succ_of_le hn
  have ht : openHandshake.take as.length = List.replicate as.length 0xFF := by
    rw [openHandshake, List.take_replicate, Nat.min_eq_left (by omega)]
  have hi := sent_loadTx_txIdx openHandshake (List.replicate as.length 0xFF) false (s.setLinkNext .opened)
  rw [List.length_replicate] at hi
  rw [sendHandshake, sendBytes_refused openHandshake as r rest ((s.setLinkNext .opened).loadTx openHandshake false) hl ha hr
    ⟨hs.pins, hs.later⟩, ht, ← hi]
  rfl

/-- The registers of a handshake with `bs` handed over are those of the statements. -/
theorem sent_loadTx_handshake (sel : PortIdx) (bs : List Byte) (p : Pins) (l : List Pins) (s : State) :
    ((((s.requestOpen sel).atEdges p l).setLinkNext .opened).loadTx openHandshake false).sent bs =
      { s with
        selQ := sel, linkNext := .opened
        txBuf := Vector.ofFn fun k => if k.val < 8 then 0xFF else s.txBuf[k]
        txLen := 8, txIdx := BitVec.ofNat 4 bs.length, txFail := false, afterTxQ := false, seq := .tx
        trace := s.trace ++ (.openReq sel :: bytesOf bs), pins := p, later := l } := by
  have hb : loadBytes openHandshake s.txBuf = _ := loadBytes_handshake s.txBuf
  have hi : 0#4 + BitVec.ofNat 4 bs.length = BitVec.ofNat 4 bs.length := BitVec.zero_add _
  have ht : s.trace ++ [.openReq sel] ++ bytesOf bs = s.trace ++ (.openReq sel :: bytesOf bs) := List.append_assoc ..
  rw [← hb, ← hi, ← ht]
  rfl

/-- Settles O9: the selection is valid, the PHY opens, and it takes the whole handshake. -/
theorem openSendsTheHandshake : Obligations.OpenSendsTheHandshake := by
  unfold Obligations.OpenSendsTheHandshake
  intro s o n sel opening as rest hl hn hsel ho ha hlen hs
  obtain ⟨hw, hok⟩ := selectPort_ok hn hsel
  rw [List.append_assoc] at hs
  rw [exec_open_of_selected hw hl hok, openPort_answered sel ho (hs ▸ accept_sees _ s), if_pos rfl,
    sendHandshake_accepted ha hlen ⟨rfl, rfl⟩, sent_loadTx_handshake, accept_open]
  rfl

/-- Settles O10: the selection is valid, the PHY opens, and the handshake stops at the refused byte. -/
theorem openHandshakeFailureLeavesTheLinkOpen : Obligations.OpenHandshakeFailureLeavesTheLinkOpen := by
  unfold Obligations.OpenHandshakeFailureLeavesTheLinkOpen
  intro s o n sel opening as refusal rest hl hn hsel ho ha hlen hr hs
  obtain ⟨hw, hok⟩ := selectPort_ok hn hsel
  rw [List.append_assoc, List.append_assoc, ← List.append_assoc (answerEdges as)] at hs
  rw [exec_open_of_selected hw hl hok, openPort_answered sel ho (hs ▸ accept_sees _ s), if_pos rfl,
    sendHandshake_refused ha hlen hr ⟨rfl, rfl⟩, sent_loadTx_handshake, List.length_replicate, accept_open]
  rfl

/-- Settles O11: the selection is valid, and the PHY does not open. -/
theorem openRefusedByThePhy : Obligations.OpenRefusedByThePhy := by
  unfold Obligations.OpenRefusedByThePhy
  intro s o n sel opening rest hl hn hsel ho hs
  obtain ⟨hw, hok⟩ := selectPort_ok hn hsel
  rw [exec_open_of_selected hw hl hok, openPort_answered sel ho (hs ▸ accept_sees _ s), accept_open]
  rfl

/-! ## CLOSE (R155 to R157) -/

/-- The latches of an accepted CLOSE. -/
theorem accept_close (s : State) :
    s.accept .close =
      s.acceptedAs 0b010 s.presented.idxGiven s.presented.idx s.presented.wlen s.presented.addr s.presentedWord := rfl

theorem exec_close_of_closed {s : State} (hl : s.linkQ = .closed) :
    exec .close s = .next ((s.accept .close).enterResp (.plain .ok 0)) := by
  rw [exec, execClose, ifPresentable_of _ rfl, hl]
  rfl

theorem exec_close_of_opened {s : State} (hl : s.linkQ = .opened) : exec .close s = shutDown (s.accept .close) := by
  rw [exec, execClose, ifPresentable_of _ rfl, hl]

/-- Settles O16: in Closed the command ends at its acceptance edge. -/
theorem closeWhileClosedDoesNothing : Obligations.CloseWhileClosedDoesNothing := by
  unfold Obligations.CloseWhileClosedDoesNothing
  intro s hl
  rw [exec_close_of_closed hl, accept_close]
  rfl

/-- A PHY that closes ends the command with what the shutdown byte's send left (R157, R205). -/
theorem closePhy_answered {s : State} {a : Answer} {rest : List Pins} (ha : a.Is Pins.CloseWait Pins.CloseDone)
    (hs : s.Sees (a.edges ++ rest)) :
    closePhy s = .next ((s.requestClose.atEdges (rest.headD Pins.quiet) rest.tail).enterResp
      (.plain (if s.txFail then .linkWriteFailed else .ok) s.txIdx)) := by
  rw [closePhy, await_answer (s := s.requestClose) ha ⟨hs.pins, hs.later⟩]
  cases hf : s.txFail <;> simp only [State.atEdges_txFail, State.requestClose_txFail, hf] <;> rfl

theorem shutDown_accepted {s : State} {a : Answer} {rest : List Pins} (ha : a.Is Pins.TxWait Pins.TxAccept)
    (hs : s.Sees (a.edges ++ rest)) :
    shutDown s = closePhy ((((s.setLinkNext .closed).loadTx closeHandshake true).byteAccepted 0xFF).atEdges
      (rest.headD Pins.quiet) rest.tail) := by
  rw [shutDown, closeHandshake, sendBytes_cons_accept (s := (s.setLinkNext .closed).loadTx [0xFF] true) ha
    ⟨hs.pins, hs.later⟩]
  rfl

theorem shutDown_refused {s : State} {a : Answer} {rest : List Pins} (ha : a.Is Pins.TxWait Pins.TxRefuse)
    (hs : s.Sees (a.edges ++ rest)) :
    shutDown s = closePhy (((s.setLinkNext .closed).loadTx closeHandshake true).byteRefused.atEdges
      (rest.headD Pins.quiet) rest.tail) := by
  rw [shutDown, closeHandshake, sendBytes_cons_refuse (s := (s.setLinkNext .closed).loadTx [0xFF] true) ha
    ⟨hs.pins, hs.later⟩]

/-- The transmit registers with the shutdown byte loaded are those of the statements. -/
theorem loadTx_closeHandshake (s : State) :
    s.loadTx closeHandshake true =
      { s with txBuf := s.txBuf.set 0 0xFF, txLen := 1, txIdx := 0, txFail := false, afterTxQ := true, seq := .tx } := by
  rw [State.loadTx, closeHandshake, loadBytes_shutdown]
  rfl

/-- Settles O14: the PHY takes the shutdown byte and closes. -/
theorem closeSendsTheShutdownByte : Obligations.CloseSendsTheShutdownByte := by
  unfold Obligations.CloseSendsTheShutdownByte
  intro s sent closing rest hl ha hc hs
  rw [List.append_assoc] at hs
  have ht : s.trace ++ [.byte 0xFF] ++ [.closeReq] = s.trace ++ [.byte 0xFF, .closeReq] := List.append_assoc ..
  rw [exec_close_of_opened hl, shutDown_accepted ha (hs ▸ accept_sees _ s), closePhy_answered hc ⟨rfl, rfl⟩,
    loadTx_closeHandshake, accept_close, ← ht]
  rfl

/-- Settles O15: the PHY refuses the shutdown byte and closes. -/
theorem closeGoesOnAfterARefusedByte : Obligations.CloseGoesOnAfterARefusedByte := by
  unfold Obligations.CloseGoesOnAfterARefusedByte
  intro s refusal closing rest hl ha hc hs
  rw [List.append_assoc] at hs
  rw [exec_close_of_opened hl, shutDown_refused ha (hs ▸ accept_sees _ s), closePhy_answered hc ⟨rfl, rfl⟩,
    loadTx_closeHandshake, accept_close]
  rfl

end Sys2Proof.Machine
end

section
/-! PROOFS. The Link Lifecycle as a whole: OPEN and CLOSE do not look at the window (R159), and an OPEN followed by a CLOSE leads
back to Closed (R158). -/

namespace Sys2Proof.Machine

/-! ## Another window (R159) -/

/-- `s` as a core of another configuration. -/
def State.withCfg (c : Config) (s : State) : State := { s with cfg := c }

section
variable (c : Config)

/-- A send does not look at the configuration. -/
theorem sendBytes_withCfg (bs : List Byte) :
    ∀ s : State, sendBytes bs (s.withCfg c) = ((sendBytes bs s).1, (sendBytes bs s).2.withCfg c) := by
  induction bs with
  | nil => exact fun s => rfl
  | cons b bs ih =>
    intro s
    have ha : (s.withCfg c).await Pins.byteAnswered =
      ((s.await Pins.byteAnswered).1, (s.await Pins.byteAnswered).2.withCfg c) := rfl
    rw [sendBytes_cons, sendBytes_cons, ha]
    obtain ⟨_ | p, t⟩ := s.await Pins.byteAnswered
    · rfl
    · cases hp : p.txErr with
      | true => simp only [hp, if_true]; rfl
      | false => simp only [hp, Bool.false_eq_true, if_false]; exact ih (t.byteAccepted b)

variable {s t : State}

theorem sendHandshake_withCfg (h : sendHandshake s = .next t) : sendHandshake (s.withCfg c) = .next (t.withCfg c) := by
  have hs : sendBytes openHandshake (((s.withCfg c).setLinkNext .opened).loadTx openHandshake false) = _ :=
    sendBytes_withCfg c openHandshake ((s.setLinkNext .opened).loadTx openHandshake false)
  rw [sendHandshake] at h ⊢
  rw [hs]
  generalize sendBytes openHandshake ((s.setLinkNext .opened).loadTx openHandshake false) = r at h ⊢
  obtain ⟨e, u⟩ := r
  cases e <;> cases h <;> rfl

theorem openPort_withCfg {sel : PortIdx} (h : openPort sel s = .next t) :
    openPort sel (s.withCfg c) = .next (t.withCfg c) := by
  have ha : ((s.withCfg c).requestOpen sel).await Pins.phyOpenDone =
    (((s.requestOpen sel).await Pins.phyOpenDone).1, ((s.requestOpen sel).await Pins.phyOpenDone).2.withCfg c) := rfl
  rw [openPort] at h ⊢
  rw [ha]
  generalize (s.requestOpen sel).await Pins.phyOpenDone = r at h ⊢
  obtain ⟨_ | p, u⟩ := r
  · cases h; rfl
  · cases hp : p.phyOpenOk with
    | true => simp only [hp, if_true] at h ⊢; exact sendHandshake_withCfg c h
    | false => simp only [hp, Bool.false_eq_true, if_false] at h ⊢; cases h; rfl

theorem openCommand_withCfg {n : PortIdx} {g : Bool} {idx : PortIdx} (h : openCommand n g idx s = .next t) :
    openCommand n g idx (s.withCfg c) = .next (t.withCfg c) := by
  have hl : (s.withCfg c).linkQ = s.linkQ := rfl
  rw [openCommand] at h ⊢
  rw [hl]
  cases hq : s.linkQ with
  | opened => rw [hq] at h; cases h; rfl
  | closed =>
    rw [hq] at h
    cases hs : selectPort n g idx with
    | error e => rw [hs] at h; cases h; rfl
    | ok sel => rw [hs] at h; exact openPort_withCfg c h

theorem closePhy_withCfg (h : closePhy s = .next t) : closePhy (s.withCfg c) = .next (t.withCfg c) := by
  have ha : (s.withCfg c).requestClose.await Pins.phyCloseDone =
    ((s.requestClose.await Pins.phyCloseDone).1, (s.requestClose.await Pins.phyCloseDone).2.withCfg c) := rfl
  rw [closePhy] at h ⊢
  rw [ha]
  generalize s.requestClose.await Pins.phyCloseDone = r at h ⊢
  obtain ⟨_ | p, u⟩ := r
  · cases h; rfl
  · have hf : (u.withCfg c).txFail = u.txFail := rfl
    simp only [hf] at h ⊢
    split_ifs at h ⊢ <;> cases h <;> rfl

theorem shutDown_withCfg (h : shutDown s = .next t) : shutDown (s.withCfg c) = .next (t.withCfg c) := by
  have hs : sendBytes closeHandshake (((s.withCfg c).setLinkNext .closed).loadTx closeHandshake true) = _ :=
    sendBytes_withCfg c closeHandshake ((s.setLinkNext .closed).loadTx closeHandshake true)
  rw [shutDown] at h ⊢
  rw [hs]
  generalize sendBytes closeHandshake ((s.setLinkNext .closed).loadTx closeHandshake true) = r at h ⊢
  obtain ⟨e, u⟩ := r
  cases e with
  | ok => exact closePhy_withCfg c h
  | failed => exact closePhy_withCfg c h
  | pending => cases h; rfl

variable {c}

/-- With the same widths the channel presents the same fields. -/
theorem presented_withCfg (ha : c.addrW = s.cfg.addrW) (hl : c.wlenW = s.cfg.wlenW) (hp : c.portW = s.cfg.portW) :
    (s.withCfg c).presented = s.presented := by
  simp only [State.presented, State.withCfg, Cmd.onWires, ha, hl, hp]

theorem accept_withCfg (i : Instr) (hc : (s.withCfg c).presented = s.presented) :
    (s.withCfg c).accept i = (s.accept i).withCfg c := by
  rw [State.accept, State.accept, hc]
  rfl

theorem portCount_withCfg (hp : c.portW = s.cfg.portW) : (s.withCfg c).portCount = s.portCount := by
  simp only [State.portCount, State.withCfg, hp]

theorem openOf_wellFormed_withCfg {o : Option PortIdx} (hp : c.portW = s.cfg.portW) :
    (openOf o).wellFormed (s.withCfg c).cfg = (openOf o).wellFormed s.cfg := by
  cases o with
  | none => rfl
  | some idx => simp only [openOf, Instr.wellFormed, State.withCfg, hp]

theorem exec_open_withCfg {o : Option PortIdx} (hp : c.portW = s.cfg.portW) (hc : (s.withCfg c).presented = s.presented)
    (h : exec (openOf o) s = .next t) : exec (openOf o) (s.withCfg c) = .next (t.withCfg c) := by
  have hw := wellFormed_of_exec h
  rw [exec_open s o hw] at h
  rw [exec_open _ o ((openOf_wellFormed_withCfg hp).trans hw), portCount_withCfg hp, accept_withCfg _ hc]
  exact openCommand_withCfg c h

theorem exec_close_withCfg (hc : (s.withCfg c).presented = s.presented) (h : exec .close s = .next t) :
    exec .close (s.withCfg c) = .next (t.withCfg c) := by
  cases hl : s.linkQ with
  | opened =>
    rw [exec_close_of_opened hl] at h
    rw [exec_close_of_opened (s := s.withCfg c) hl, accept_withCfg _ hc]
    exact shutDown_withCfg c h
  | closed =>
    cases (exec_close_of_closed hl).symm.trans h
    rw [exec_close_of_closed (s := s.withCfg c) hl, accept_withCfg _ hc]
    rfl

end

/-- Settles O48: the widths alone decide what is presented, and no part of OPEN or CLOSE looks at the configuration. -/
theorem lifecycleIndependentOfTheWindow : Obligations.LifecycleIndependentOfTheWindow := by
  unfold Obligations.LifecycleIndependentOfTheWindow
  intro i s t c hi ha hl hp h
  have hc := presented_withCfg ha hl hp
  rcases hi with rfl | ⟨o, rfl⟩
  · exact exec_close_withCfg hc h
  · exact exec_open_withCfg hp hc h

/-! ## OPEN and then CLOSE (R158) -/

/-- A response that the caller takes leaves the core idle at the next edge (R202). -/
theorem step_of_taking {s : State} (hq : s.seq = .resp) (hr : s.pins.rst = false) (ht : s.pins.respReady = true) :
    step s = .next s.takeResponse.advance := by
  have ha : ¬ s.accepting = true := by simp [accepting_iff, hq]
  rw [step_of_not_accepting ha, edge_resp hq hr, State.respEdge, if_pos ht]

/-- In Open, the taking of a response and a CLOSE at once after it, with a PHY that accepts the byte and closes, lead to Closed. -/
theorem run_take_then_close {s : State} {taking closeCmd : Pins} {sent closing : Answer} {rest : List Pins}
    (hq : s.seq = .resp) (hl : s.linkQ = .opened) (hs : s.Sees (taking :: closeCmd :: (sent.edges ++ closing.edges ++ rest)))
    (htake : taking.rst = false ∧ taking.respReady = true)
    (hclose : closeCmd.rst = false ∧ closeCmd.cmdValid = true ∧ closeCmd.cmd.op = 0b010)
    (hsent : sent.Is Pins.TxWait Pins.TxAccept) (hclosing : closing.Is Pins.CloseWait Pins.CloseDone) :
    ∃ t, Host.Core.run Sys2Proof.core 2 s = .next t ∧ t.linkQ = .closed ∧ t.seq = .resp ∧
      t.trace = s.trace ++ [.byte 0xFF, .closeReq] ∧ t.delivered = s.delivered ++ [s.resp] ∧ t.resp = .plain .ok 1 := by
  obtain ⟨hp, hd⟩ := hs
  have htaken : step s = .next s.takeResponse.advance := step_of_taking hq (hp ▸ htake.1) (hp ▸ htake.2)
  have hpins : s.takeResponse.advance.pins = closeCmd := by rw [State.advance_pins, State.takeResponse_later, hd]; rfl
  have hlater : s.takeResponse.advance.later = sent.edges ++ closing.edges ++ rest := by
    rw [State.advance_later, State.takeResponse_later, hd]; rfl
  have hacc : s.takeResponse.advance.accepting = true :=
    (accepting_iff _).mpr ⟨hpins ▸ hclose.1, rfl, hpins ▸ hclose.2.1⟩
  have hop : s.takeResponse.advance.presented.op = 0b010 := (congrArg (·.cmd.op) hpins).trans hclose.2.2
  have hfetched : s.takeResponse.advance.fetched = .close := decodeCmd_close hop
  have hclosed := closeSendsTheShutdownByte s.takeResponse.advance sent closing rest hl hsent hclosing hlater
  rw [← hfetched, ← step_of_accepting hacc] at hclosed
  exact ⟨_, (run_succ htaken).trans (run_succ hclosed), rfl, rfl, rfl, rfl, rfl⟩

/-- Settles O50: the OPEN ends in Open with its response presented, and the taking of it and the CLOSE lead back to Closed. -/
theorem openThenCloseRoundTrip : Obligations.OpenThenCloseRoundTrip := by
  unfold Obligations.OpenThenCloseRoundTrip
  intro s o n sel opening as taking closeCmd sent closing rest hq hr hv hf hl hn hsel ho ha hlen htr hta hcr hcv hcop hsent
    hclosing hs
  have hopen := openSendsTheHandshake s o n sel opening as (taking :: closeCmd :: (sent.edges ++ closing.edges ++ rest))
    hl hn hsel ho ha hlen (by simpa using hs)
  rw [← hf, ← step_of_accepting ((accepting_iff s).mpr ⟨hr, hq, hv⟩)] at hopen
  rw [run_succ hopen]
  exact run_take_then_close rfl rfl ⟨rfl, rfl⟩ ⟨htr, hta⟩ ⟨hcr, hcv, hcop⟩ hsent hclosing

end Sys2Proof.Machine
end

section
/-! PROOFS. Steps always answer (R83, R174, R187): a command is refused exactly where its operands do not fit (93 I15), and the
command a core accepts always fits. -/

namespace Sys2Proof.Machine

/-- The commands with operands are the ones that can fail to fit, and they are refused before anything else. -/
theorem exec_of_not_wellFormed {i : Instr} {s : State} (h : i.wellFormed s.cfg = false) :
    exec i s = .refused .notPresentable := by
  cases i with
  | openIdx idx => exact if_neg (by simp [h])
  | write addr wlen word => exact if_neg (by simp [h])
  | check addr wlen => exact if_neg (by simp [h])
  | encode addr word => exact if_neg (by simp [h])
  | _ => cases h

/-- Settles O27: a command that does not fit is refused, and one that fits has its transaction. -/
theorem onlyUnpresentableCommandsAreRefused : Obligations.OnlyUnpresentableCommandsAreRefused := by
  unfold Obligations.OnlyUnpresentableCommandsAreRefused
  intro i s
  cases hw : i.wellFormed s.cfg with
  | false => simp [exec_of_not_wellFormed hw]
  | true =>
    obtain ⟨t, he, -⟩ := exec_follows hw
    simp [he]

/-- Settles O26: an accepted command fits, because its fields come off the wires, and every other step is a clock edge. -/
theorem everyStepHasANextState : Obligations.EveryStepHasANextState := by
  unfold Obligations.EveryStepHasANextState
  intro s
  by_cases ha : s.accepting = true
  · obtain ⟨t, he, -⟩ := exec_follows (fetched_wellFormed s)
    exact ⟨t, (step_of_accepting ha).trans he⟩
  · exact ⟨s.edge, step_of_not_accepting ha⟩

end Sys2Proof.Machine
end

section
/-! PROOFS. Silent agents (R187): an edge at which the agent waited for does not answer only passes. -/

namespace Sys2Proof.Machine

theorem edge_of_silent {s : State} (hr : s.pins.rst = false) (hs : s.pins.Silent s.seq) : s.edge = s.advance := by
  cases hq : s.seq with
  | idle =>
    simp only [Pins.Silent, hq] at hs
    rw [edge_idle hq hr, hs]
    rfl
  | phyOpen =>
    simp only [Pins.Silent, hq] at hs
    rw [edge_phyOpen hq hr, State.phyOpenEdge, hs]
    rfl
  | tx =>
    simp only [Pins.Silent, hq] at hs
    rw [edge_tx hq hr, State.txEdge, hs.1, hs.2]
    exact congrArg State.advance (ite_self s)
  | phyClose =>
    simp only [Pins.Silent, hq] at hs
    rw [edge_phyClose hq hr, State.phyCloseEdge, hs]
    rfl
  | resp =>
    simp only [Pins.Silent, hq] at hs
    rw [edge_resp hq hr, State.respEdge, hs]
    rfl

/-- A silent edge accepts no command, so the step is the edge. -/
theorem step_of_silent {s : State} (hr : s.pins.rst = false) (hs : s.pins.Silent s.seq) : step s = .next s.advance := by
  have ha : ¬ s.accepting = true := by
    intro ha
    obtain ⟨-, hq, hv⟩ := (accepting_iff s).mp ha
    rw [hq] at hs
    exact absurd (hs.symm.trans hv) Bool.false_ne_true
  rw [step_of_not_accepting ha, edge_of_silent hr hs]

/-- A stretch of silent edges passes, whatever the sequencer state. -/
theorem run_of_silent (ws : List Pins) {next : Pins} {rest : List Pins} :
    ∀ s : State, (∀ w ∈ ws, w.rst = false ∧ w.Silent s.seq) → s.Sees (ws ++ next :: rest) →
      Host.Core.run Sys2Proof.core ws.length s = .next (s.atEdges next rest) := by
  induction ws with
  | nil =>
    rintro s - ⟨hp, hl⟩
    have hs : s.atEdges next rest = s := by cases s; cases hp; cases hl; rfl
    rw [hs]
    rfl
  | cons w ws ih =>
    rintro s hw ⟨hp, hl⟩
    obtain ⟨hr, hs⟩ := hw w List.mem_cons_self
    have hstep : step s = .next s.advance := by
      refine step_of_silent ?_ ?_ <;> rwa [hp]
    have hsees : s.advance.Sees (ws ++ next :: rest) := by
      refine ⟨?_, ?_⟩
      · rw [State.advance_pins, hl]; rfl
      · rw [State.advance_later, hl]; rfl
    exact (run_succ hstep).trans (ih s.advance (fun x hx => hw x (List.mem_cons_of_mem w hx)) hsees)

theorem Pins.quiet_silent (q : Seq) : Pins.quiet.Silent q := by
  cases q with
  | tx => exact ⟨rfl, rfl⟩
  | _ => rfl

/-- On quiet pins with no later edge the state is its own next state. -/
theorem step_of_quiet {s : State} (hp : s.pins = Pins.quiet) (hl : s.later = []) : step s = .next s := by
  have hs : s.advance = s := by cases s; cases hp; cases hl; rfl
  have hstep := step_of_silent (s := s) (hp ▸ rfl) (hp ▸ Pins.quiet_silent s.seq)
  rwa [hs] at hstep

theorem run_of_quiet {s : State} (hp : s.pins = Pins.quiet) (hl : s.later = []) (n : Nat) :
    Host.Core.run Sys2Proof.core n s = .next s := by
  induction n with
  | zero => rfl
  | succ n ih => exact (run_succ (step_of_quiet hp hl)).trans ih

/-- Settles O40, by induction on the silent edges, and on the number of steps where no agent does anything any more. -/
theorem silentAgentsLeaveTheCoreWaiting : Obligations.SilentAgentsLeaveTheCoreWaiting := by
  unfold Obligations.SilentAgentsLeaveTheCoreWaiting
  refine ⟨fun s ws next rest hq hw he => ⟨?_, by simp [State.outputs, hq]⟩, fun s n hp hl => run_of_quiet hp hl n⟩
  exact run_of_silent ws s hw ⟨congrArg (·.headD Pins.quiet) he, congrArg List.tail he⟩

end Sys2Proof.Machine
end

section
/-! PROOFS. The status table (R170 to R172): its codes, and that every response of a command is in the command's row. -/

namespace Sys2Proof.Machine

/-- Settles O52, by the table of codes: a code that is none of the nine numbers is 9 or more. -/
theorem statusCodesAreReadBack : Obligations.StatusCodesAreReadBack := by
  unfold Obligations.StatusCodesAreReadBack
  refine ⟨⟨rfl, rfl, rfl, rfl, rfl, rfl, rfl, rfl, rfl⟩, fun e => ?_, fun c => ?_⟩
  · cases e <;> rfl
  · unfold Status.ofCode
    split
    case h_10 => exact iff_of_true rfl (by simp only [imp_false] at *; omega)
    all_goals simp [*]

/-! ## The responses of a send (R131, R150, R152) -/

/-- The two ends of an open handshake that reach a response. -/
theorem sendHandshake_response {s t : State} (h : sendHandshake s = .next t) (hq : t.seq = .resp) :
    t.resp = .plain .ok 8 ∨ ∃ k ≤ 7, t.resp = .plain .linkWriteFailed (BitVec.ofNat 4 k) := by
  obtain ⟨k, p, l, he | ⟨hk, he⟩ | ⟨-, he, -⟩⟩ := sendHandshake_cases s <;> cases he.symm.trans h
  · exact .inl rfl
  · exact .inr ⟨k, by omega, rfl⟩
  · cases hq

theorem sendFrame_responseAllowed {f : Frame} {s t : State} (h : sendFrame f s = .next t) (hq : t.seq = .resp) (g : Bool) :
    responseAllowed 0b011 g t.resp := by
  obtain ⟨hr, -⟩ | ⟨k, hk, hr, -⟩ := sendFrame_response h hq <;> rw [hr]
  · simp [responseAllowed, Response.Plain, Response.plain]
  · have hc : BitVec.ofNat 4 k ≤ 8 := by bv_omega
    simpa [responseAllowed, Response.Plain, Response.plain] using hc

theorem sendHandshake_responseAllowed {s t : State} (h : sendHandshake s = .next t) (hq : t.seq = .resp) (g : Bool) :
    responseAllowed 0b001 g t.resp := by
  obtain hr | ⟨k, hk, hr⟩ := sendHandshake_response h hq <;> rw [hr]
  · simp [responseAllowed, Response.Plain, Response.plain]
  · have hc : BitVec.ofNat 4 k ≤ 7 := by bv_omega
    simpa [responseAllowed, Response.Plain, Response.plain] using hc

/-! ## The responses of OPEN and CLOSE (R150, R155, R157) -/

theorem openPort_responseAllowed {sel : PortIdx} {s t : State} (h : openPort sel s = .next t) (hq : t.seq = .resp) (g : Bool) :
    responseAllowed 0b001 g t.resp := by
  obtain ⟨p, l, he | ⟨he, -⟩ | he⟩ := openPort_cases sel s
  · cases he.symm.trans h
    simp [responseAllowed, Response.Plain, Response.plain]
  · cases he.symm.trans h
    cases hq
  · exact sendHandshake_responseAllowed (he.symm.trans h) hq g

/-- The response of a PHY close is what the registers of the send say. -/
theorem closePhy_response {s t : State} (h : closePhy s = .next t) (hq : t.seq = .resp) :
    t.resp = .plain (if s.txFail then .linkWriteFailed else .ok) s.txIdx := by
  obtain ⟨p, l, he | ⟨he, -⟩⟩ := closePhy_cases s <;> cases he.symm.trans h
  · rfl
  · cases hq

/-- The shutdown byte was accepted and counted, or refused and not counted. -/
theorem shutDown_responseAllowed {s t : State} (h : shutDown s = .next t) (hq : t.seq = .resp) (g : Bool) :
    responseAllowed 0b010 g t.resp := by
  obtain ⟨p, l, he | he | ⟨he, -⟩⟩ := shutDown_cases s
  · have hr : t.resp = .plain .ok 1 := closePhy_response (he.symm.trans h) hq
    simp [hr, responseAllowed, Response.Plain, Response.plain]
  · have hr : t.resp = .plain .linkWriteFailed 0 := closePhy_response (he.symm.trans h) hq
    simp [hr, responseAllowed, Response.Plain, Response.plain]
  · cases he.symm.trans h
    cases hq

/-- Settles O44, by what `exec` of a presentable command can be. -/
theorem everyResponseIsInTheStatusTable : Obligations.EveryResponseIsInTheStatusTable := by
  unfold Obligations.EveryResponseIsInTheStatusTable
  intro i s t h hq
  cases exec_shape (wellFormed_of_exec h) with
  | immediate r him =>
    cases him.answer.symm.trans h
    exact him.allowed
  | send addr wlen word hi hg h4 answer =>
    subst hi
    exact sendFrame_responseAllowed (answer.symm.trans h) hq _
  | opening o sel hi hl hs answer =>
    have hop : (encodeOver i Cmd.zero).op = 0b001 := by cases o <;> exact hi ▸ rfl
    exact hop ▸ openPort_responseAllowed (answer.symm.trans h) hq _
  | closing hi hl answer =>
    subst hi
    exact shutDown_responseAllowed (answer.symm.trans h) hq _

end Sys2Proof.Machine
end

section
/-! PROOFS. The edges of one command (R200 to R205): the next state of each wait state's edge, written out, and the reset edge
(R210, R211). -/

namespace Sys2Proof.Machine

/-- Settles O30: in RESP the edge takes the response or passes. -/
theorem responseHeldUntilTaken : Obligations.ResponseHeldUntilTaken := by
  unfold Obligations.ResponseHeldUntilTaken
  intro s hq hr
  refine ⟨by simp [State.outputs, hq], ?_⟩
  rw [edge_resp hq hr, State.respEdge]
  split_ifs <;> rfl

/-- The transmit registers with the handshake loaded are those of the statements. -/
theorem loadTx_openHandshake (s : State) :
    s.loadTx openHandshake false =
      { s with
        txBuf := Vector.ofFn fun k => if k.val < 8 then 0xFF else s.txBuf[k]
        txLen := 8, txIdx := 0, txFail := false, afterTxQ := false, seq := .tx } := by
  rw [State.loadTx, openHandshake, loadBytes_handshake]
  rfl

/-- Settles O31, by the PHY's answer to the open request. -/
theorem phyOpenEdges : Obligations.PhyOpenEdges := by
  unfold Obligations.PhyOpenEdges
  intro s hq hr
  rw [edge_phyOpen hq hr, State.phyOpenEdge]
  refine ⟨by simp [State.outputs, hq], fun hd => ?_, fun hd ho => ?_, fun hd ho => ?_⟩
  · rw [hd]
    rfl
  · rw [hd, ho]
    rfl
  · rw [hd, ho, if_pos rfl, if_pos rfl, loadTx_openHandshake]
    rfl

/-- Settles O33: in PHY_CLOSE the edge ends the command or passes. -/
theorem phyCloseEdges : Obligations.PhyCloseEdges := by
  unfold Obligations.PhyCloseEdges
  intro s hq hr
  refine ⟨by simp [State.outputs, hq], ?_⟩
  rw [edge_phyClose hq hr, State.phyCloseEdge]
  split_ifs <;> rfl

/-- Settles O32: the presented byte exists because `tx_idx` is below the buffer's length, and the PHY's answer to it decides. -/
theorem byteTransferEdges : Obligations.ByteTransferEdges := by
  unfold Obligations.ByteTransferEdges
  intro s hq hr hlt hle
  have hi : s.txIdx.toNat < 9 := by bv_omega
  have hv : s.txValid = true := s.txValid_iff.mpr ⟨hq, hlt⟩
  have hget : s.txBuf[s.txIdx.toNat]? = some s.txBuf[s.txIdx.toNat] := Vector.getElem?_eq_getElem hi
  have hb : s.txByte = s.txBuf[s.txIdx.toNat] := State.txByte_of_getElem? hget
  rw [edge_tx hq hr, State.txEdge, if_pos hv, hb]
  refine ⟨_, hget, hv, (if_pos hv).trans hb, fun he => ?_, fun he hy => ?_, fun he hy => ?_⟩
  · rw [if_pos he]
    split_ifs <;> rfl
  · have ht : s.trace ++ [.byte s.txBuf[s.txIdx.toNat], .closeReq] =
        s.trace ++ [.byte s.txBuf[s.txIdx.toNat]] ++ [.closeReq] := List.append_cons ..
    rw [if_neg (ne_true_of_eq_false he), if_pos hy, ht]
    split_ifs <;> rfl
  · rw [if_neg (ne_true_of_eq_false he), if_neg (ne_true_of_eq_false hy)]
    rfl

/-- Settles O34: no command is accepted at a reset edge, and it loads the registers of `State.reset`. -/
theorem resetTakesPriority : Obligations.ResetTakesPriority := by
  unfold Obligations.ResetTakesPriority
  intro s hr
  have hn : ¬ s.accepting = true := by simp [accepting_iff, hr]
  refine ⟨by simp [State.outputs, hr], ?_⟩
  rw [step_of_not_accepting hn, edge_reset hr]
  rfl

end Sys2Proof.Machine
end

section
/-! PROOFS. What an edge may do to `link` and the response registers (R31, R37, R201): load them where it enters RESP, and nothing
anywhere else. -/

namespace Sys2Proof.Machine

/-- The edge of a command in progress either ends it with a response, `link_q` taking `link_next`, or shows what it showed before
and presents no response. -/
def State.RespondsOrKeeps (s t : State) : Prop :=
  (t.seq = .resp ∧ t.linkQ = t.linkNext) ∨ (t.seq ≠ .resp ∧ t.linkQ = s.linkQ ∧ t.resp = s.resp)

theorem State.RespondsOrKeeps.refl {s : State} (h : s.seq ≠ .resp) : s.RespondsOrKeeps s := .inr ⟨h, rfl, rfl⟩

theorem enterResp_responds (s t : State) (r : Response) : s.RespondsOrKeeps (t.enterResp r) := .inl ⟨rfl, rfl⟩

theorem requestOpen_keeps (s : State) (sel : PortIdx) : s.RespondsOrKeeps (s.requestOpen sel) :=
  .inr ⟨by simp, rfl, rfl⟩

theorem requestClose_keeps {s t : State} (hl : t.linkQ = s.linkQ) (hr : t.resp = s.resp) :
    s.RespondsOrKeeps t.requestClose := .inr ⟨by simp, hl, hr⟩

theorem loadTx_keeps {s t : State} (bs : List Byte) (thenClose : Bool) (hl : t.linkQ = s.linkQ) (hr : t.resp = s.resp) :
    s.RespondsOrKeeps (t.loadTx bs thenClose) := .inr ⟨by simp, hl, hr⟩

theorem acceptAction_respondsOrKeeps (n : PortIdx) (t : State) : t.RespondsOrKeeps (t.acceptAction n) := by
  rcases op_cases t.opQ with ho | ho | ho | ho | ho | ho | ho | ho
  · rw [acceptAction_reserved (.inl ho)]
    exact enterResp_responds ..
  · rw [acceptAction_open ho]
    cases t.linkQ with
    | opened => exact enterResp_responds ..
    | closed =>
      cases selectPort n t.idxGivenQ t.idxQ with
      | error e => exact enterResp_responds ..
      | ok sel => exact requestOpen_keeps ..
  · rw [acceptAction_close ho]
    cases t.linkQ with
    | closed => exact enterResp_responds ..
    | opened => exact loadTx_keeps _ _ rfl rfl
  · rw [acceptAction_write ho]
    split_ifs
    · exact loadTx_keeps _ _ rfl rfl
    · exact enterResp_responds ..
    · exact enterResp_responds ..
  · rw [acceptAction_check ho]
    exact enterResp_responds ..
  · rw [acceptAction_encode ho]
    split_ifs <;> exact enterResp_responds ..
  · rw [acceptAction_reserved (.inr (.inl ho))]
    exact enterResp_responds ..
  · rw [acceptAction_reserved (.inr (.inr ho))]
    exact enterResp_responds ..

section
variable {s : State} (h : s.seq ≠ .resp)
include h

theorem phyOpenEdge_respondsOrKeeps : s.RespondsOrKeeps s.phyOpenEdge := by
  unfold State.phyOpenEdge
  split_ifs
  · exact loadTx_keeps _ _ rfl rfl
  · exact enterResp_responds ..
  · exact .refl h

theorem txEdge_respondsOrKeeps : s.RespondsOrKeeps s.txEdge := by
  unfold State.txEdge
  split_ifs
  · exact requestClose_keeps rfl rfl
  · exact enterResp_responds ..
  · exact requestClose_keeps rfl rfl
  · exact enterResp_responds ..
  · exact .inr ⟨h, rfl, rfl⟩
  · exact .refl h
  · exact .refl h

theorem phyCloseEdge_respondsOrKeeps : s.RespondsOrKeeps s.phyCloseEdge := by
  unfold State.phyCloseEdge
  split
  · exact enterResp_responds ..
  · exact .refl h

/-- Out of RESP and out of reset, an edge responds or keeps (R201). -/
theorem edge_respondsOrKeeps (hr : s.pins.rst = false) : s.RespondsOrKeeps s.edge := by
  cases hq : s.seq with
  | idle =>
    rw [edge_idle hq hr]
    split_ifs
    · exact acceptAction_respondsOrKeeps s.portCount (s.latch s.presented)
    · exact State.RespondsOrKeeps.refl h
  | phyOpen => exact edge_phyOpen hq hr ▸ phyOpenEdge_respondsOrKeeps h
  | tx => exact edge_tx hq hr ▸ txEdge_respondsOrKeeps h
  | phyClose => exact edge_phyClose hq hr ▸ phyCloseEdge_respondsOrKeeps h
  | resp => exact absurd hq h

/-- An edge that presents no response leaves `link` (R31). -/
theorem edge_linkQ_of_not_resp (hr : s.pins.rst = false) (he : s.edge.seq ≠ .resp) : s.edge.linkQ = s.linkQ :=
  ((edge_respondsOrKeeps h hr).resolve_left fun ⟨hq, _⟩ => he hq).2.1

end

/-- In RESP, `link` and the response are held (R202). -/
theorem edge_of_resp_holds {s : State} (hq : s.seq = .resp) (hr : s.pins.rst = false) :
    s.edge.linkQ = s.linkQ ∧ s.edge.resp = s.resp := by
  rw [edge_resp hq hr, State.respEdge]
  split_ifs <;> exact ⟨rfl, rfl⟩

/-- Settles O38: an edge out of RESP responds or keeps, and one in RESP holds. -/
theorem linkAndResponseChangeOnlyOnEnteringResp : Obligations.LinkAndResponseChangeOnlyOnEnteringResp := by
  unfold Obligations.LinkAndResponseChangeOnlyOnEnteringResp
  intro s hr
  by_cases hq : s.seq = .resp
  · obtain ⟨hl, hresp⟩ := edge_of_resp_holds hq hr
    exact ⟨fun hn => absurd hq hn, fun hc => absurd hc (by simp [hl, hresp])⟩
  · rcases edge_respondsOrKeeps hq hr with ⟨he, hl⟩ | ⟨he, hl, hresp⟩
    · exact ⟨fun _ _ => ⟨hl, by simp [State.outputs, he]⟩, fun _ => ⟨hq, he⟩⟩
    · exact ⟨fun _ hc => absurd hc he, fun hc => absurd hc (by simp [hl, hresp])⟩

end Sys2Proof.Machine
end

section
/-! PROOFS. The refinement (R206): where a transaction stops, and that the link state stands until then. -/

namespace Sys2Proof.Machine

/-! ## Where a transaction stops (R13, R187) -/

/-- A command has ended with a response, or stands in a wait that no answer ends. -/
def State.Stopped (t : State) : Prop :=
  t.seq = .resp ∨ ((t.seq = .phyOpen ∨ t.seq = .tx ∨ t.seq = .phyClose) ∧ Unanswered t.pins t.later)

theorem enterResp_stopped (r : Response) (s : State) : (s.enterResp r).Stopped := .inl rfl

theorem sendFrame_stopped {f : Frame} {s t : State} (h : sendFrame f s = .next t) : t.Stopped := by
  obtain ⟨k, p, l, he | ⟨-, he⟩ | ⟨-, he, hp⟩⟩ := sendFrame_cases f s <;> cases he.symm.trans h
  · exact enterResp_stopped ..
  · exact enterResp_stopped ..
  · exact .inr ⟨.inr (.inl rfl), hp⟩

theorem sendHandshake_stopped {s t : State} (h : sendHandshake s = .next t) : t.Stopped := by
  obtain ⟨k, p, l, he | ⟨-, he⟩ | ⟨-, he, hp⟩⟩ := sendHandshake_cases s <;> cases he.symm.trans h
  · exact enterResp_stopped ..
  · exact enterResp_stopped ..
  · exact .inr ⟨.inr (.inl rfl), hp⟩

theorem openPort_stopped {sel : PortIdx} {s t : State} (h : openPort sel s = .next t) : t.Stopped := by
  obtain ⟨p, l, he | ⟨he, hp⟩ | he⟩ := openPort_cases sel s
  · cases he.symm.trans h
    exact enterResp_stopped ..
  · cases he.symm.trans h
    exact .inr ⟨.inl rfl, hp⟩
  · exact sendHandshake_stopped (he.symm.trans h)

theorem closePhy_stopped {s t : State} (h : closePhy s = .next t) : t.Stopped := by
  obtain ⟨p, l, he | ⟨he, hp⟩⟩ := closePhy_cases s <;> cases he.symm.trans h
  · exact enterResp_stopped ..
  · exact .inr ⟨.inr (.inr rfl), hp⟩

theorem shutDown_stopped {s t : State} (h : shutDown s = .next t) : t.Stopped := by
  obtain ⟨p, l, he | he | ⟨he, hp⟩⟩ := shutDown_cases s
  · exact closePhy_stopped (he.symm.trans h)
  · exact closePhy_stopped (he.symm.trans h)
  · cases he.symm.trans h
    exact .inr ⟨.inr (.inl rfl), hp⟩

/-- Every transaction stops with a response or in a wait (notes/assumptions/5.md). -/
theorem exec_stopped {i : Instr} {s t : State} (h : exec i s = .next t) : t.Stopped := by
  cases exec_shape (wellFormed_of_exec h) with
  | immediate r him =>
    cases him.answer.symm.trans h
    exact enterResp_stopped ..
  | send addr wlen word hi hg h4 answer => exact sendFrame_stopped (answer.symm.trans h)
  | opening o sel hi hl hs answer => exact openPort_stopped (answer.symm.trans h)
  | closing hi hl answer => exact shutDown_stopped (answer.symm.trans h)

/-! ## The link state of a command in progress (R31) -/

/-- Along the edges of a command, `link` stands until the response. -/
theorem State.Follows.linkQ {s t : State} (h : s.Follows t) (hq : t.seq ≠ .resp) : t.linkQ = s.linkQ := by
  obtain ⟨n, rfl, h⟩ := h
  cases n with
  | zero => rfl
  | succ n =>
    obtain ⟨hl, -, hresp, hr⟩ := h n n.lt_succ_self
    rw [edges_add n 1 s] at hq ⊢
    exact (edge_linkQ_of_not_resp hresp hr hq).trans hl

/-- A command that has presented no response had presented none before. -/
theorem State.Follows.start_not_resp {s t : State} (h : s.Follows t) (hq : t.seq ≠ .resp) : s.seq ≠ .resp := by
  obtain ⟨n, rfl, h⟩ := h
  cases n with
  | zero => exact hq
  | succ n => exact (h 0 n.succ_pos).2.2.1

/-- Settles O29: the edge that accepts the command is the first of `n + 1`, and `exec_follows` gives the others. -/
theorem transactionRefinedByClockEdges : Obligations.TransactionRefinedByClockEdges := by
  unfold Obligations.TransactionRefinedByClockEdges
  intro s hr hq hv
  obtain ⟨t, he, hf⟩ := exec_follows (fetched_wellFormed s)
  rw [← edge_of_accepting ((accepting_iff s).mpr ⟨hr, hq, hv⟩)] at hf
  have hfirst : s.edge.seq ≠ .resp → s.edge.linkQ = s.linkQ := edge_linkQ_of_not_resp (by simp [hq]) hr
  have hlast : t.seq ≠ .resp → t.linkQ = s.linkQ := fun h => (hf.linkQ h).trans (hfirst (hf.start_not_resp h))
  obtain ⟨n, hn, hbetween⟩ := hf
  refine ⟨n, t, he, hn, fun m h0 hm => ?_, ?_⟩
  · obtain ⟨m, rfl⟩ := Nat.exists_eq_succ_of_ne_zero (Nat.ne_of_gt h0)
    obtain ⟨hl, hidle, hresp, hrst⟩ := hbetween m hm
    have hstart : s.edge.seq ≠ .resp := (hbetween 0 (Nat.zero_lt_of_lt hm)).2.2.1
    exact ⟨hl.trans (hfirst hstart), hidle, hresp, hrst⟩
  · refine (exec_stopped he).imp_right fun ⟨hwait, hun⟩ => ⟨hlast ?_, hwait, hun⟩
    rcases hwait with h | h | h <;> simp [h]

end Sys2Proof.Machine
end
